-- ==== Sys2Proof/Word.lean ====
section
/-! DEFINITION. The 32-bit word, the byte, and the three-word command of the block (30_encoding.md R52, R54). -/

namespace Sys2Proof

/-- A 32-bit word; bit 0 is the least significant bit (R14). No word of the block is signed. -/
abbrev Word := BitVec 32

/-- One byte of a byte-serial link (R41). -/
abbrev Byte := BitVec 8

/-- A 96-bit command as the requester presents it: W0 (header), W1 (operand A), W2 (operand B) (R52). -/
structure Command where
  w0 : Word
  w1 : Word
  w2 : Word
deriving DecidableEq, Repr

end Sys2Proof
end

