-- ==== Sys2Proof/Syntax.lean ====
section
/-! DEFINITION. The commands of the block as syntax: one constructor per row of spec/opcode_table.json, with the operands
of 30_encoding.md R55. Operands are unsigned integers (R14, R56); their ranges are WellFormed's. -/

namespace Sys2Proof

/-- The interlock kind, the `K` bit of the header: 0 = hard (`H`), 1 = soft (`S`) (R53). -/
inductive Kind where
  | hard
  | soft
deriving DecidableEq, Repr

/-- The commands of R57. `id` is the module index, `k` the kind, `i` the event index, `j` the slice index. Fields that a
command does not use (R55) are not part of it: R61 gives them no effect. -/
inductive Instr where
  /-- NOP (R114). -/
  | nop
  /-- EM_INIT (R75). -/
  | emInit (id freq numHard numSoft : Nat)
  /-- EM_CFG_EVENT (R77). -/
  | emCfgEvent (id : Nat) (k : Kind) (i debounceUs resetUs : Nat)
  /-- EM_TB_SIGNAL (R80). -/
  | emTbSignal (id : Nat)
  /-- EM_TICK (R82). -/
  | emTick (id : Nat)
  /-- SET_HARD (R86). -/
  | setHard (id i : Nat)
  /-- SET_SOFT (R88). -/
  | setSoft (id i : Nat)
  /-- ITLK_RESET (R95); `safe` is A[0]. -/
  | itlkReset (id : Nat) (safe : Bool)
  /-- WR_STATE (R97). -/
  | wrState (id value : Nat)
  /-- TS_CONFIG (R100). -/
  | tsConfig (j targetHz masterHz : Nat)
  /-- TS_STEP (R102). -/
  | tsStep (j : Nat)
  /-- RD_LATCH (R108). -/
  | rdLatch (id : Nat) (k : Kind)
  /-- RD_MODULE (R109). -/
  | rdModule (id : Nat)
  /-- RD_EVENT (R110). -/
  | rdEvent (id : Nat) (k : Kind) (i : Nat)
  /-- RD_EVENT_CFG (R111). -/
  | rdEventCfg (id : Nat) (k : Kind) (i : Nat)
  /-- RD_SLICE (R112). -/
  | rdSlice (j : Nat)
deriving DecidableEq, Repr

end Sys2Proof
end

