-- ==== Sys2Proof/WellFormed.lean ====
section
/-! DEFINITION. When a command can be encoded: every operand fits the field that carries it (30_encoding.md R53 to R55;
the assembler's refusals of R65). This is about the ENCODING only: an index that fits its field and is out of range of
the block (`id >= M` and the like) is a well-formed command that gets status RANGE (R59). -/

namespace Sys2Proof

/-- The module index fits the 4-bit field ID (R53). -/
def idFits (id : Nat) : Bool := decide (id < 2 ^ 4)

/-- The event or slice index fits the 8-bit field IDX (R53). -/
def idxFits (i : Nat) : Bool := decide (i < 2 ^ 8)

/-- An event count of EM_INIT fits its 8 bits of operand B (R55; "the assembler refuses `num_hard` or `num_soft` above
255", R65). -/
def countFits (n : Nat) : Bool := decide (n < 2 ^ 8)

/-- An operand fits its 32-bit word (R54). -/
def wordFits (v : Nat) : Bool := decide (v < 2 ^ 32)

/-- Every operand of the command fits its field. -/
def Instr.wf : Instr → Bool
  | .nop => true
  | .emInit id freq nh ns => idFits id && wordFits freq && countFits nh && countFits ns
  | .emCfgEvent id _ i d r => idFits id && idxFits i && wordFits d && wordFits r
  | .emTbSignal id => idFits id
  | .emTick id => idFits id
  | .setHard id i => idFits id && idxFits i
  | .setSoft id i => idFits id && idxFits i
  | .itlkReset id _ => idFits id
  | .wrState id value => idFits id && wordFits value
  | .tsConfig j t m => idxFits j && wordFits t && wordFits m
  | .tsStep j => idxFits j
  | .rdLatch id _ => idFits id
  | .rdModule id => idFits id
  | .rdEvent id _ i => idFits id && idxFits i
  | .rdEventCfg id _ i => idFits id && idxFits i
  | .rdSlice j => idxFits j

end Sys2Proof
end

