-- ==== Sys2Proof/Decode.lean ====
section
/-! DEFINITION. The decoder of 30_encoding.md, total on any command and on any bytes, rejecting by name; after it the
encoder, from the same field layout (R53, R55) and opcode map (R57); the opcode map as data; and the operand-use table
of R55, which says which bits a command reads. -/

namespace Sys2Proof

/-- Why bytes or words are no instruction. -/
inductive DecodeError where
  /-- `OP` is 0x0A to 0x0F or 0x15 to 0xFF (R60); the block answers ILLEGAL. -/
  | reservedOpcode (op : Nat)
  /-- Fewer than three words are there: no command has been presented (R42). -/
  | incomplete (bytesPresent : Nat)
deriving DecidableEq, Repr

/-! ## Fields -/

/-- `v[hi:lo]`, read as an unsigned integer (R14), for the `len` bits from `lo` up. -/
def field (v : Word) (lo len : Nat) : Nat := (v.extractLsb' lo len).toNat

/-- `OP` = W0[31:24] (R53). -/
def Command.op (c : Command) : Nat := field c.w0 24 8

/-- `ID` = W0[23:20] (R53). -/
def Command.id (c : Command) : Nat := field c.w0 20 4

/-- `K` = W0[19]: 0 = hard, 1 = soft (R53). -/
def Command.kind (c : Command) : Kind := if field c.w0 19 1 = 0 then .hard else .soft

/-- `IDX` = W0[15:8]: event index or slice index (R53). -/
def Command.idx (c : Command) : Nat := field c.w0 8 8

/-- Operand A = W1, all 32 bits (R54). -/
def Command.opA (c : Command) : Nat := c.w1.toNat

/-- Operand B = W2, all 32 bits (R54). -/
def Command.opB (c : Command) : Nat := c.w2.toNat

/-! ## The decoder -/

/-- The command that three words spell: the row of R57 that `OP` (and, for OP 0x05, `K`) selects, with the operands of
R55. Every other bit is ignored (R61). A reserved opcode is rejected by name (R60). -/
def decode (c : Command) : Except DecodeError Instr :=
  match c.op with
  | 0x00 => .ok .nop
  | 0x01 => .ok (.emInit c.id c.opA (field c.w2 0 8) (field c.w2 8 8))
  | 0x02 => .ok (.emCfgEvent c.id c.kind c.idx c.opA c.opB)
  | 0x03 => .ok (.emTbSignal c.id)
  | 0x04 => .ok (.emTick c.id)
  | 0x05 =>
    match c.kind with
    | .hard => .ok (.setHard c.id c.idx)
    | .soft => .ok (.setSoft c.id c.idx)
  | 0x06 => .ok (.itlkReset c.id (field c.w1 0 1 == 1))
  | 0x07 => .ok (.wrState c.id c.opA)
  | 0x08 => .ok (.tsConfig c.idx c.opA c.opB)
  | 0x09 => .ok (.tsStep c.idx)
  | 0x10 => .ok (.rdLatch c.id c.kind)
  | 0x11 => .ok (.rdModule c.id)
  | 0x12 => .ok (.rdEvent c.id c.kind c.idx)
  | 0x13 => .ok (.rdEventCfg c.id c.kind c.idx)
  | 0x14 => .ok (.rdSlice c.idx)
  | op => .error (.reservedOpcode op)

/-- A word from its four bytes, least significant byte first (R41). -/
def wordOfBytes (b0 b1 b2 b3 : Byte) : Word := b3 ++ b2 ++ b1 ++ b0

/-- The four bytes of a word, least significant byte first (R41). -/
def bytesOfWord (v : Word) : List Byte :=
  [v.extractLsb' 0 8, v.extractLsb' 8 8, v.extractLsb' 16 8, v.extractLsb' 24 8]

/-- The twelve bytes of a command on a byte-serial link: W0, W1, W2 in that order (R41). -/
def Command.bytes (c : Command) : List Byte := bytesOfWord c.w0 ++ bytesOfWord c.w1 ++ bytesOfWord c.w2

/-- The command at the head of a byte stream and the rest of the stream, or `none` if the stream is shorter than three
words: "A decoder tells where a command ends by counting three words" (R62). -/
def Command.ofBytes : List Byte → Option (Command × List Byte)
  | a0 :: a1 :: a2 :: a3 :: b0 :: b1 :: b2 :: b3 :: c0 :: c1 :: c2 :: c3 :: rest =>
    some (⟨wordOfBytes a0 a1 a2 a3, wordOfBytes b0 b1 b2 b3, wordOfBytes c0 c1 c2 c3⟩, rest)
  | _ => none

/-- The decoder on any bytes: one command and the bytes after it, or the rejection by name. -/
def decodeBytes (bs : List Byte) : Except DecodeError (Instr × List Byte) :=
  match Command.ofBytes bs with
  | none => .error (.incomplete bs.length)
  | some (c, rest) =>
    match decode c with
    | .ok i => .ok (i, rest)
    | .error e => .error e

/-! ## The encoder -/

/-- The `K` bit of a kind (R53). -/
def Kind.bit : Kind → Nat
  | .hard => 0
  | .soft => 1

/-- The header word with its reserved fields zero: OP, ID, K, RSV1, IDX, RSV0 from the top (R53). -/
def header (op id k idx : Nat) : Word :=
  BitVec.ofNat 8 op ++ BitVec.ofNat 4 id ++ BitVec.ofNat 1 k ++ (0 : BitVec 3) ++ BitVec.ofNat 8 idx ++ (0 : BitVec 8)

/-- Operand B of EM_INIT: `num_hard` in B[7:0], `num_soft` in B[15:8] (R55, R65). -/
def countsWord (numHard numSoft : Nat) : Word :=
  (0 : BitVec 16) ++ BitVec.ofNat 8 numSoft ++ BitVec.ofNat 8 numHard

/-- The words of a command, every ignored bit written as 0 (R61: "Assemblers write them as 0"). -/
def encode : Instr → Command
  | .nop => ⟨header 0x00 0 0 0, 0, 0⟩
  | .emInit id freq nh ns => ⟨header 0x01 id 0 0, BitVec.ofNat 32 freq, countsWord nh ns⟩
  | .emCfgEvent id k i d r => ⟨header 0x02 id k.bit i, BitVec.ofNat 32 d, BitVec.ofNat 32 r⟩
  | .emTbSignal id => ⟨header 0x03 id 0 0, 0, 0⟩
  | .emTick id => ⟨header 0x04 id 0 0, 0, 0⟩
  | .setHard id i => ⟨header 0x05 id 0 i, 0, 0⟩
  | .setSoft id i => ⟨header 0x05 id 1 i, 0, 0⟩
  | .itlkReset id safe => ⟨header 0x06 id 0 0, if safe then 1 else 0, 0⟩
  | .wrState id value => ⟨header 0x07 id 0 0, BitVec.ofNat 32 value, 0⟩
  | .tsConfig j t m => ⟨header 0x08 0 0 j, BitVec.ofNat 32 t, BitVec.ofNat 32 m⟩
  | .tsStep j => ⟨header 0x09 0 0 j, 0, 0⟩
  | .rdLatch id k => ⟨header 0x10 id k.bit 0, 0, 0⟩
  | .rdModule id => ⟨header 0x11 id 0 0, 0, 0⟩
  | .rdEvent id k i => ⟨header 0x12 id k.bit i, 0, 0⟩
  | .rdEventCfg id k i => ⟨header 0x13 id k.bit i, 0, 0⟩
  | .rdSlice j => ⟨header 0x14 0 0 j, 0, 0⟩

/-! ## The opcode map and the operand-use table as data -/

/-- The mnemonic of a command, as R57 and spec/opcode_table.json spell it. -/
def Instr.mnemonic : Instr → String
  | .nop => "NOP"
  | .emInit .. => "EM_INIT"
  | .emCfgEvent .. => "EM_CFG_EVENT"
  | .emTbSignal .. => "EM_TB_SIGNAL"
  | .emTick .. => "EM_TICK"
  | .setHard .. => "SET_HARD"
  | .setSoft .. => "SET_SOFT"
  | .itlkReset .. => "ITLK_RESET"
  | .wrState .. => "WR_STATE"
  | .tsConfig .. => "TS_CONFIG"
  | .tsStep .. => "TS_STEP"
  | .rdLatch .. => "RD_LATCH"
  | .rdModule .. => "RD_MODULE"
  | .rdEvent .. => "RD_EVENT"
  | .rdEventCfg .. => "RD_EVENT_CFG"
  | .rdSlice .. => "RD_SLICE"

/-- One row of the opcode map: header word W0 spells the command exactly when `W0 & mask = pattern` (R57), and the
bits of W0, A and B that the command reads (R55), the selecting bits apart. -/
structure OpcodeRow where
  mnemonic : String
  pattern : Word
  mask : Word
  readsW0 : Word
  readsA : Word
  readsB : Word
deriving DecidableEq, Repr

/-- Does the row select this header word? -/
def OpcodeRow.selects (r : OpcodeRow) (w0 : Word) : Bool := w0 &&& r.mask == r.pattern

/-- The opcode map of R57 with the operand use of R55: ID is W0[23:20] = 0x00F00000, K is W0[19] = 0x00080000, IDX is
W0[15:8] = 0x0000FF00. -/
def opcodeMap : List OpcodeRow :=
  [ ⟨"NOP",          0x00000000, 0xFF000000, 0x00000000, 0x00000000, 0x00000000⟩,
    ⟨"EM_INIT",      0x01000000, 0xFF000000, 0x00F00000, 0xFFFFFFFF, 0x0000FFFF⟩,
    ⟨"EM_CFG_EVENT", 0x02000000, 0xFF000000, 0x00F8FF00, 0xFFFFFFFF, 0xFFFFFFFF⟩,
    ⟨"EM_TB_SIGNAL", 0x03000000, 0xFF000000, 0x00F00000, 0x00000000, 0x00000000⟩,
    ⟨"EM_TICK",      0x04000000, 0xFF000000, 0x00F00000, 0x00000000, 0x00000000⟩,
    ⟨"SET_HARD",     0x05000000, 0xFF080000, 0x00F0FF00, 0x00000000, 0x00000000⟩,
    ⟨"SET_SOFT",     0x05080000, 0xFF080000, 0x00F0FF00, 0x00000000, 0x00000000⟩,
    ⟨"ITLK_RESET",   0x06000000, 0xFF000000, 0x00F00000, 0x00000001, 0x00000000⟩ ] ++
  [ ⟨"WR_STATE",     0x07000000, 0xFF000000, 0x00F00000, 0xFFFFFFFF, 0x00000000⟩,
    ⟨"TS_CONFIG",    0x08000000, 0xFF000000, 0x0000FF00, 0xFFFFFFFF, 0xFFFFFFFF⟩,
    ⟨"TS_STEP",      0x09000000, 0xFF000000, 0x0000FF00, 0x00000000, 0x00000000⟩,
    ⟨"RD_LATCH",     0x10000000, 0xFF000000, 0x00F80000, 0x00000000, 0x00000000⟩,
    ⟨"RD_MODULE",    0x11000000, 0xFF000000, 0x00F00000, 0x00000000, 0x00000000⟩,
    ⟨"RD_EVENT",     0x12000000, 0xFF000000, 0x00F8FF00, 0x00000000, 0x00000000⟩,
    ⟨"RD_EVENT_CFG", 0x13000000, 0xFF000000, 0x00F8FF00, 0x00000000, 0x00000000⟩,
    ⟨"RD_SLICE",     0x14000000, 0xFF000000, 0x0000FF00, 0x00000000, 0x00000000⟩ ]

/-- The reserved opcodes: 0x0A to 0x0F and 0x15 to 0xFF (R60). -/
def opcodeReserved (op : Nat) : Bool :=
  (decide (0x0A ≤ op) && decide (op ≤ 0x0F)) || (decide (0x15 ≤ op) && decide (op ≤ 0xFF))

/-! ## The table's bit numbering -/

/-- The command whose bits are `w` in the numbering of spec/opcode_table.json: bit 0 is the least significant bit of W0,
and the bits of W1 and W2 count on from it. -/
def commandOfNat (w : Nat) : Command :=
  ⟨BitVec.ofNat 32 w, BitVec.ofNat 32 (w / 2 ^ 32), BitVec.ofNat 32 (w / 2 ^ 64)⟩

/-- The command of a table word of `nbits` bits: every bit above `nbits` is 0. -/
def tableCommand (nbits w : Nat) : Command := commandOfNat (w % 2 ^ nbits)

/-- What the decoder reads from a word of the table, laid out as the link carries it (R41). -/
def decodeTableWord (nbits w : Nat) : Option Instr :=
  match decodeBytes (tableCommand nbits w).bytes with
  | .ok (i, _) => some i
  | .error _ => none

end Sys2Proof
end

