-- ==== Sys2Proof/Config.lean ====
section
/-! DEFINITION. The implementation parameters of 00_scope.md (R4 to R12), with the spec's defaults, and the one point
the spec leaves `OPEN` (20_memory.md R45). The constraints on a parameter set (R13) are `Params.legal` in
Sys2Proof/Machine/Operands.lean. -/

namespace Sys2Proof

/-- The parameters that the spec calls named arguments of the model (R4 to R12). They are plain data, so that the
model covers every legal parameter set, and no step writes them. DESIGN CHOICE, safe: log 1. -/
structure Params where
  /-- `M`, the number of modules (R4). -/
  M : Nat
  /-- `E`, the number of event slots per kind per module, and the width of a latch register (R5). -/
  E : Nat
  /-- `S`, the number of time-slicer slices (R6). -/
  S : Nat
  /-- `F_MAX`, the largest effective time-base frequency in Hz (R9). -/
  fMax : Nat
  /-- `MAX_DEBOUNCE_US`, the ceiling on a debounce time in microseconds (R10). -/
  maxDebounceUs : Nat
  /-- `MAX_RESET_US`, the ceiling on a reset time in microseconds (R11). -/
  maxResetUs : Nat
  /-- `N_MAX`, the largest time-slicer divisor (R12). -/
  nMax : Nat
deriving DecidableEq, Repr

/-- The default of every parameter (R4 to R6, R9 to R12). -/
def Params.default : Params :=
  { M := 4, E := 32, S := 8, fMax := 10000000, maxDebounceUs := 5000000, maxResetUs := 10000000,
    nMax := 4294967295 }

/-- `CW`, the width of every counter, count and divisor: "the value is fixed, not configurable" (R7). -/
abbrev CW : Nat := 32

/-- `SW`, the width of the module state register (R8). DEDUCED, unsafe: fixed at 4, since R29 gives the register 4 bits,
R97 writes the bound as 16 and R109 reads the state into four bits: log 2. -/
abbrev SW : Nat := 4

/-- How the requesters reach the ports: the three placements R45 names. -/
inductive Placement where
  | memoryMappedFifo
  | coprocessorPort
  | directWires
deriving DecidableEq, Repr, Inhabited

/-- `BLOCK_PLACEMENT` (R45, OPEN-1): left open by the spec, so it has no body here; "No rule of this spec depends on
it", and no definition of the model reads it. DESIGN CHOICE, safe: log 12. -/
opaque Config.blockPlacement : Placement

end Sys2Proof
end

