-- ==== Sys2Proof/Machine/State.lean ====
section
/-! DEFINITION. The state of the block: every register of 10_state.md, the held command of the arbiter, the outputs of
the last step, and (the model's own) the parameters and the input schedules; the state after reset; the reasons a step
can stop. -/

namespace Sys2Proof.Machine

/-- A hard value and a soft value: `X[H]` and `X[S]` of the spec's notation (R16). -/
structure ByKind (α : Type) where
  hard : α
  soft : α
deriving DecidableEq, Repr

/-- One event record `EV[id][k][i]` (R24). -/
structure Event where
  /-- pending or active (R24, R31) -/
  flag : Bool
  /-- tick count, CW bits -/
  counter : BitVec CW
  /-- ticks before the condition is considered real, CW bits -/
  debounceCount : BitVec CW
  /-- ticks after which a pending flag clears, CW bits -/
  resetCount : BitVec CW
deriving DecidableEq, Repr

/-- The default record of R76: flag 0, counter 0, debounce_count 0, reset_count 1 (R24 for reset, R75 for EM_INIT). -/
def Event.reset : Event := { flag := false, counter := 0, debounceCount := 0, resetCount := 1 }

/-- The registers of one module: the event manager (R22, R23, R27), the event bank (R24), the latch registers (R28)
and the state register (R29). -/
structure ModuleRegs where
  /-- `EM[id].freq` (R22) -/
  freq : BitVec 32
  /-- `EM[id].num[k]` (R23) -/
  num : ByKind (BitVec 6)
  /-- `EM[id].tb_flag` (R27) -/
  tbFlag : Bool
  /-- `EV[id][k][i]` for `i` in [0, E) (R24) -/
  ev : ByKind (List Event)
  /-- `LATCH[id][k]` (R28), bit `i` for event `i`. E bits wide in the spec, held in 32 bits of which bits [31:E] are 0
  in every state that meets the invariant. DEDUCED, safe: log 4. -/
  latch : ByKind (BitVec 32)
  /-- `STATE[id]` (R29) -/
  opState : BitVec SW
deriving DecidableEq, Repr

/-- The state codes that the block's own rules name (R29). -/
def stateOff : BitVec SW := 0

/-- INTERLOCK, code 1 (R29); a greater code is "operating". -/
def stateInterlock : BitVec SW := 1

/-- A bank of `E` default records. -/
def defaultBank (p : Params) : List Event := List.replicate p.E Event.reset

/-- A module at reset (R141): freq 1, num E and E, tb_flag 0, default records, latches 0, state OFF. -/
def ModuleRegs.reset (p : Params) : ModuleRegs :=
  { freq := 1
    num := { hard := BitVec.ofNat 6 p.E, soft := BitVec.ofNat 6 p.E }
    tbFlag := false
    ev := { hard := defaultBank p, soft := defaultBank p }
    latch := { hard := 0, soft := 0 }
    opState := stateOff }

/-- One time-slicer slice (R30): the divisor `TS[j].N` and the counter `TS[j].counter`. -/
structure Slice where
  n : BitVec CW
  counter : BitVec CW
deriving DecidableEq, Repr

/-- A slice at reset: N = 1, counter 0 (R30, R141). -/
def Slice.reset : Slice := { n := 1, counter := 0 }

/-- The request ports of R127: port 0 (the control ISR) and port 1 (the background loop). -/
inductive Port where
  | isr
  | background
deriving DecidableEq, Repr

/-- The status codes of R121; no other value is ever produced (R66). -/
inductive Status where
  | ok
  | range
  | illegal
deriving DecidableEq, Repr

/-- A response `(status, a, b)` (R66, R120). -/
structure Response where
  status : Status
  a : Word
  b : Word
deriving DecidableEq, Repr

/-- The outputs of one step: the command it took and the port it came from (R18, R120), the response to that port
(R120), and the modules whose `TurnOff` event line the step asserted, in the order of emission (R124). DESIGN CHOICE,
safe: the outputs of a step are held in the state it leads to: log 10. -/
structure StepOutput where
  accepted : Option (Port × Command)
  response : Option Response
  turnOff : List Nat
deriving DecidableEq, Repr

/-- No command taken, no response, no `TurnOff` (R140, R141). -/
def StepOutput.quiet : StepOutput := { accepted := none, response := none, turnOff := [] }

/-- What a requester has on its port in one step: nothing, fewer than three words (no command, R42), or a whole
command. -/
inductive Presented where
  | nothing
  | oneWord (w0 : Word)
  | twoWords (w0 w1 : Word)
  | command (c : Command)
deriving DecidableEq, Repr

/-- The state of the block and of what the outside world will do to it. -/
structure State where
  /-- The parameters R4 to R12, fixed in a run (log 1). -/
  params : Params
  /-- The registers of module `id` at position `id`, `M` of them. -/
  modules : List ModuleRegs
  /-- `TS[j]` at position `j`, `S` of them (R30). -/
  slices : List Slice
  /-- The held command of port 1 (R127, R141). -/
  held : Option Command
  /-- The outputs of the last step (R123). -/
  out : StepOutput
  /-- Input: the level of `rst` in each coming step; past the end of the list it is not asserted (R140; log 5). -/
  rstIn : List Bool
  /-- Input: what port 0 presents in each coming step; past the end of the list, nothing (R127; log 5). -/
  port0In : List Presented
  /-- Input: what port 1 presents next, one entry a step, waiting while a command is held (R127; log 5, log 6). -/
  port1In : List Presented
deriving DecidableEq, Repr

/-- Why the machine stops with a fault: never. "No error traps, halts or changes the block's mode" (R121), so this type
has no constructor. -/
inductive Fault where
deriving DecidableEq, Repr

/-- Why a step has no meaning. -/
inductive Refusal where
  /-- Raised by an arm of `exec` for a command that has no meaning yet (none in this model); safe. -/
  | notModelled (mnemonic : String)
  /-- Raised by `step`, and by no command's meaning, when the parameters break the constraints of R13: "A model refuses
  any other parameter set." Safe: no claim about such a machine can be proved. -/
  | illegalParameters
deriving DecidableEq, Repr

/-- The state right after reset, for one parameter set: every register as R141 says, nothing held, no output, and
nothing presented on the inputs. -/
def State.resetWith (p : Params) : State :=
  { params := p
    modules := List.replicate p.M (ModuleRegs.reset p)
    slices := List.replicate p.S Slice.reset
    held := none
    out := StepOutput.quiet
    rstIn := []
    port0In := []
    port1In := [] }

/-- The state right after reset with the default parameters. -/
def State.reset : State := State.resetWith Params.default

end Sys2Proof.Machine
end

