-- ==== Sys2Proof/Machine/Operands.lean ====
section
/-! DEFINITION. The arithmetic on operands: conversion and clamping (40_event_config.md R70 to R73), the divisor
(43_timeslicer.md R101), and the constraints on a parameter set (00_scope.md R13). All of it is on unbounded
non-negative integers (R15). -/

namespace Sys2Proof.Machine

/-- `clamp(v, lo, hi) = min(max(v, lo), hi)` (R15). -/
def clamp (v lo hi : Nat) : Nat := min (max v lo) hi

/-- Microseconds to ticks at `f` Hz, rounded to nearest with ties up (R70). -/
def ticks (f us : Nat) : Nat := (f * us + 500000) / 1000000

/-- The effective time-base frequency (R71). -/
def fEff (p : Params) (freq : Nat) : Nat := clamp freq 1 p.fMax

/-- The debounce count: clamped in microseconds, then converted (R72). -/
def debounceCountOf (p : Params) (f dUs : Nat) : Nat := ticks f (min dUs p.maxDebounceUs)

/-- `max_reset_counts(f)` (R73). -/
def maxResetCounts (p : Params) (f : Nat) : Nat := ticks f p.maxResetUs

/-- The reset count: clamped and converted, then raised above the debounce count (R73). -/
def resetCountOf (p : Params) (f dUs rUs : Nat) : Nat :=
  max (ticks f (min rUs p.maxResetUs)) (debounceCountOf p f dUs + 1)

/-- The decimation divisor (R101): `N_MAX` for a zero target, else round to nearest with ties up, clamped to
[1, N_MAX]. -/
def divisor (p : Params) (t m : Nat) : Nat :=
  if t = 0 then p.nMax else clamp ((2 * m + t) / (2 * t)) 1 p.nMax

/-! ## The constraints on a parameter set (R13) -/

/-- R13(b) at one frequency. -/
def ceilingsApartAt (p : Params) (f : Nat) : Bool :=
  decide (ticks f p.maxDebounceUs + 1 ≤ ticks f p.maxResetUs)

/-- R13(b) at every frequency from 1 to `n`. -/
def ceilingsApartUpTo (p : Params) : Nat → Bool
  | 0 => true
  | n + 1 => ceilingsApartUpTo p n && ceilingsApartAt p (n + 1)

/-- R13(b) at every frequency in [1, F_MAX]. Frequencies at which the two ceilings lie at least 10^6 microsecond-hertz
apart meet it by themselves, so only those below are looked at one by one. -/
def ceilingsApart (p : Params) : Bool :=
  decide (p.maxDebounceUs < p.maxResetUs) &&
    ceilingsApartUpTo p (min p.fMax (1000000 / (p.maxResetUs - p.maxDebounceUs)))

end Sys2Proof.Machine

namespace Sys2Proof

open Machine

/-- A legal parameter set: the ranges of R4 to R6 and R12, a nonempty frequency range (DEDUCED from R22, safe: log 3),
and R13(a), (b), (c), with `2^CW - 1` for `CW = 32` (R7). -/
def Params.legal (p : Params) : Bool :=
  decide (1 ≤ p.M) && decide (p.M ≤ 16) && decide (1 ≤ p.E) && decide (p.E ≤ 32) &&
  decide (1 ≤ p.S) && decide (p.S ≤ 256) && decide (1 ≤ p.fMax) &&
  decide (ticks p.fMax p.maxResetUs ≤ 2 ^ 32 - 1) && ceilingsApart p &&
  decide (1 ≤ p.nMax) && decide (p.nMax ≤ 2 ^ 32 - 1)

end Sys2Proof
end

