-- ==== Sys2Proof/Machine/Flags.lean ====
section
/-! DEFINITION. The flags and derived states of the block: the debounce state of an event (10_state.md R26), what one
consumed tick does to an event and to a bank (41_debounce.md R82 to R84), the class of a state code (R29), and the
words that RD_MODULE and RD_EVENT assemble from them (44_readback.md R109, R110). -/

namespace Sys2Proof.Machine

/-- The `X[k]` of the spec's notation (R16). -/
def ByKind.get {α : Type} (x : ByKind α) : Kind → α
  | .hard => x.hard
  | .soft => x.soft

/-- `X[k] <- v`. -/
def ByKind.set {α : Type} (x : ByKind α) : Kind → α → ByKind α
  | .hard, v => { x with hard := v }
  | .soft, v => { x with soft := v }

/-- A flag as a number. -/
def bitOf (b : Bool) : Nat := if b then 1 else 0

/-! ## The debounce state of an event -/

/-- The three derived states of R26. -/
inductive Phase where
  | idle
  | pending
  | armed
deriving DecidableEq, Repr

/-- R26: a function of the record, not extra storage. -/
def Event.phase (e : Event) : Phase :=
  if e.flag then
    if e.counter.toNat < e.debounceCount.toNat then .pending else .armed
  else .idle

/-- The code of R110, `b[9:8]`: 0 IDLE, 1 PENDING, 2 ARMED. -/
def Phase.code : Phase → Nat
  | .idle => 0
  | .pending => 1
  | .armed => 2

/-- The record with `flag <- 0` and `counter <- 0`. -/
def Event.cleared (e : Event) : Event := { e with flag := false, counter := 0 }

/-- The threshold test of R86: `counter >= debounce_count`. -/
def Event.thresholdMet (e : Event) : Bool := decide (e.debounceCount.toNat ≤ e.counter.toNat)

/-- Does a consumed tick make this event self-heal: flagged, and the incremented counter reaches `reset_count` (R82;
`>=` by R84)? -/
def Event.heals (e : Event) : Bool := e.flag && decide (e.resetCount.toNat ≤ e.counter.toNat + 1)

/-- What a consumed tick does to one visited event (R82; the condition is `flag == 1` alone, R83). -/
def Event.tick (e : Event) : Event :=
  if e.flag then
    if e.heals then e.cleared else { e with counter := BitVec.ofNat CW (e.counter.toNat + 1) }
  else e

/-- A consumed tick on a bank of which the first `n` events are visited (R82). -/
def tickBank (n : Nat) (bank : List Event) : List Event := (bank.take n).map Event.tick ++ bank.drop n

/-- How many of the visited events heal (R82). -/
def healedIn (n : Nat) (bank : List Event) : Nat := (bank.take n).countP Event.heals

/-! ## Module-level conditions -/

/-- The operating predicate: the state code is greater than INTERLOCK (R29). -/
def ModuleRegs.operating (m : ModuleRegs) : Bool := decide (stateInterlock.toNat < m.opState.toNat)

/-- Is any interlock latched (R125)? -/
def ModuleRegs.latched (m : ModuleRegs) : Bool := m.latch.hard ||| m.latch.soft != 0

/-! ## Words of flags -/

/-- Result `a` of RD_MODULE (R109): state in [3:0], tb_flag in [8], operating in [9], num[H] in [21:16], num[S] in
[29:24], every other bit 0. -/
def moduleWord (m : ModuleRegs) : Word :=
  (0 : BitVec 2) ++ m.num.soft ++ (0 : BitVec 2) ++ m.num.hard ++ (0 : BitVec 6) ++
    BitVec.ofBool m.operating ++ BitVec.ofBool m.tbFlag ++ (0 : BitVec 4) ++ m.opState

/-- Result `b` of RD_EVENT (R110): flag in [0], the derived state in [9:8], the latch bit in [16], every other bit
0. -/
def eventWord (e : Event) (latchBit : Bool) : Word :=
  (0 : BitVec 15) ++ BitVec.ofBool latchBit ++ (0 : BitVec 6) ++ BitVec.ofNat 2 e.phase.code ++
    (0 : BitVec 7) ++ BitVec.ofBool e.flag

end Sys2Proof.Machine
end

