-- ==== Sys2Proof/Machine/Ops.lean ====
section
/-! DEFINITION. The named operations on the registers and outputs: the one accessor and the one update of each register
bank, `respond` and `emit TurnOff` (00_scope.md R16), the forced transition of a new latch and the way back from it
(60_exceptions.md R129, R130), and the response words on the link. -/

namespace Sys2Proof.Machine

/-! ## Register access -/

/-- The registers of module `id`. For `id >= M` no command gets here (R59); the reset registers stand in. DESIGN
CHOICE, safe: log 15. -/
def State.mod (s : State) (id : Nat) : ModuleRegs := s.modules.getD id (ModuleRegs.reset s.params)

/-- Writes the registers of module `id`. -/
def State.setMod (s : State) (id : Nat) (m : ModuleRegs) : State := { s with modules := s.modules.set id m }

/-- `EM[id].num[k]` as a number (R23). -/
def State.num (s : State) (id : Nat) (k : Kind) : Nat := ((s.mod id).num.get k).toNat

/-- The event record `EV[id][k][i]` (R24); for `i >= E` the default record stands in (log 15). -/
def ModuleRegs.event (m : ModuleRegs) (k : Kind) (i : Nat) : Event := (m.ev.get k).getD i Event.reset

/-- `EV[id][k][i]`. -/
def State.event (s : State) (id : Nat) (k : Kind) (i : Nat) : Event := (s.mod id).event k i

/-- Writes one event record of a module. -/
def ModuleRegs.setEvent (m : ModuleRegs) (k : Kind) (i : Nat) (e : Event) : ModuleRegs :=
  { m with ev := m.ev.set k ((m.ev.get k).set i e) }

/-- `EV[id][k][i] <- e`. -/
def State.setEvent (s : State) (id : Nat) (k : Kind) (i : Nat) (e : Event) : State :=
  s.setMod id ((s.mod id).setEvent k i e)

/-- `LATCH[id][k]` (R28). -/
def State.latch (s : State) (id : Nat) (k : Kind) : BitVec 32 := (s.mod id).latch.get k

/-- `LATCH[id][k][i]`. -/
def State.latchBit (s : State) (id : Nat) (k : Kind) (i : Nat) : Bool := (s.latch id k).getLsbD i

/-- `STATE[id]` (R29). -/
def State.opState (s : State) (id : Nat) : BitVec SW := (s.mod id).opState

/-- `STATE[id] <- v`. -/
def State.setOpState (s : State) (id : Nat) (v : BitVec SW) : State :=
  s.setMod id { s.mod id with opState := v }

/-- `TS[j]` (R30); for `j >= S` the reset slice stands in (log 15). -/
def State.slice (s : State) (j : Nat) : Slice := s.slices.getD j Slice.reset

/-- `TS[j] <- t`. -/
def State.setSlice (s : State) (j : Nat) (t : Slice) : State := { s with slices := s.slices.set j t }

/-! ## Outputs -/

/-- `respond(status, a, b)` (R16, R120). -/
def State.respond (s : State) (st : Status) (a b : Word) : State :=
  { s with out := { s.out with response := some { status := st, a := a, b := b } } }

/-- `respond(RANGE, 0, 0)`: an index or value out of range, no effect (R121). -/
def State.rangeError (s : State) : State := s.respond .range 0 0

/-- `respond(ILLEGAL, 0, 0)`: a reserved opcode, no effect (R60, R121). -/
def State.illegalError (s : State) : State := s.respond .illegal 0 0

/-- `emit TurnOff(id)` (R16, R124). -/
def State.emitTurnOff (s : State) (id : Nat) : State :=
  { s with out := { s.out with turnOff := s.out.turnOff ++ [id] } }

/-- The continuous output `operating[id]` (R125). -/
def State.operating (s : State) (id : Nat) : Bool := (s.mod id).operating

/-- The continuous output `latched[id]` (R125). -/
def State.latched (s : State) (id : Nat) : Bool := (s.mod id).latched

/-- The response that the last step returned to port `p`: the response goes to the port that presented the command
(R120). -/
def State.responseTo (s : State) (p : Port) : Option Response :=
  match s.out.accepted with
  | some (q, _) => if q = p then s.out.response else none
  | none => none

/-- The numeric status code of R66. -/
def Status.code : Status → BitVec 8
  | .ok => 0
  | .range => 1
  | .illegal => 2

/-- The response words Q0 = zext_32(status), Q1 = a, Q2 = b (R66). -/
def Response.words (r : Response) : Word × Word × Word := (r.status.code.setWidth 32, r.a, r.b)

/-- The twelve bytes of a response on a byte-serial link: Q0, Q1, Q2 in that order, each least significant byte first
(R41). -/
def Response.bytes (r : Response) : List Byte :=
  bytesOfWord r.words.1 ++ bytesOfWord r.words.2.1 ++ bytesOfWord r.words.2.2

/-! ## The forced transition of a new latch, and the way back -/

/-- A new latch (R129, the block's trap analogue): `emit TurnOff(id)`, `STATE[id] <- INTERLOCK`, and the latch bit
`LATCH[id][k] <- LATCH[id][k] | (1 << i)` (R86). It saves no state: there is no return address, no saved mode. -/
def State.takeLatch (s : State) (id : Nat) (k : Kind) (i : Nat) : State :=
  let m := s.mod id
  (s.emitTurnOff id).setMod id
    { m with opState := stateInterlock, latch := m.latch.set k (m.latch.get k ||| (1#32 <<< i)) }

/-- The way out of INTERLOCK (R95, R130): both latch registers cleared and, when the preconditions are verified safe
and the state is INTERLOCK, `STATE[id] <- OFF`, never the state before the latch. -/
def State.leaveLatch (s : State) (id : Nat) (safe : Bool) : State :=
  let m := s.mod id
  s.setMod id
    { m with
      latch := { hard := 0, soft := 0 }
      opState := if safe && m.opState == stateInterlock then stateOff else m.opState }

/-- The set procedure `set_event(id, k, i)` of R86, shared by SET_HARD and SET_SOFT (R88). -/
def State.setProcedure (s : State) (id : Nat) (k : Kind) (i : Nat) : State :=
  if id < s.params.M then
    if i < s.num id k then
      let e := s.event id k i
      if e.thresholdMet then
        if s.latchBit id k i then
          (s.setEvent id k i e.cleared).respond .ok 2 e.counter
        else
          ((s.takeLatch id k i).setEvent id k i e.cleared).respond .ok 1 e.counter
      else
        (s.setEvent id k i { e with flag := true }).respond .ok 0 e.counter
    else s.rangeError
  else s.rangeError

end Sys2Proof.Machine
end

