-- ==== Sys2Proof/Machine/Arbiter.lean ====
section
/-! DEFINITION. What the ports present, the arbiter, the held command, and the reset input (60_exceptions.md R127,
20_memory.md R42, 70_reset_and_hazards.md R140, R142). -/

namespace Sys2Proof.Machine

/-- The command presented, if all three words are there; fewer words present no command (R42). DEDUCED, safe: words of
an incomplete presentation are not collected over steps: log 7. -/
def Presented.whole : Presented → Option Command
  | .command c => some c
  | .nothing => none
  | .oneWord _ => none
  | .twoWords _ _ => none

/-- The command port 0 presents in this step. -/
def State.presented0 (s : State) : Option Command := (s.port0In.headD .nothing).whole

/-- The command port 1 presents in this step: the held one while there is one ("it stays presented"), else what its
requester presents (R127). -/
def State.presented1 (s : State) : Option Command :=
  match s.held with
  | some c => some c
  | none => (s.port1In.headD .nothing).whole

/-- Is `rst` asserted in this step (R140)? -/
def State.rstAsserted (s : State) : Bool := s.rstIn.headD false

/-- The fixed priority of R127: port 0's command if it presents one, else port 1's, else none. -/
def arbitrate (c0 c1 : Option Command) : Option (Port × Command) :=
  match c0 with
  | some c => some (.isr, c)
  | none =>
    match c1 with
    | some c => some (.background, c)
    | none => none

/-- The command this step takes, with its port. -/
def State.chosen (s : State) : Option (Port × Command) := arbitrate s.presented0 s.presented1

/-- Port 1's command after this step: held if port 0's was taken instead (R127). -/
def State.heldNext (s : State) : Option Command :=
  match s.presented0 with
  | some _ => s.presented1
  | none => none

/-- The inputs move on by one step. Port 1 presents "one at a time": its schedule waits while a command is held (log
6). -/
def State.advanceInputs (s : State) : State :=
  { s with
    rstIn := s.rstIn.tail
    port0In := s.port0In.tail
    port1In := if s.held.isSome then s.port1In else s.port1In.tail }

/-- The machine as the chosen command's rule finds it: inputs moved on, port 1's command held if port 0 won, the outputs
of the step before withdrawn, the taken command noted. -/
def State.beginStep (s : State) : State :=
  { s.advanceInputs with held := s.heldNext, out := { StepOutput.quiet with accepted := s.chosen } }

/-- A step with `rst` asserted (R140, R142): no command is taken, what the ports present is discarded, there is no
response, and every register holds its reset value. DEDUCED, unsafe: log 8. -/
def State.resetStep (s : State) : State :=
  { State.resetWith s.params with
    rstIn := s.advanceInputs.rstIn
    port0In := s.advanceInputs.port0In
    port1In := s.advanceInputs.port1In }

end Sys2Proof.Machine
end

