-- ==== Sys2Proof/Machine/Debounce.lean ====
section
/-! DEFINITION. The debounce state machine and the fault-condition arbiter: EM_TB_SIGNAL, EM_TICK, SET_HARD, SET_SOFT
(41_debounce.md). -/

namespace Sys2Proof.Machine

/-- EM_TB_SIGNAL (R80). The response tells whether the earlier period was still unconsumed. -/
def execEmTbSignal (id : Nat) (s : State) : Host.Outcome State Fault Refusal :=
  if id < s.params.M then
    let m := s.mod id
    .next ((s.setMod id { m with tbFlag := true }).respond .ok (BitVec.ofNat 32 (bitOf m.tbFlag)) 0)
  else .next s.rangeError

/-- EM_TICK (R82): consumes one period, if there is one, and visits the configured events of both kinds. -/
def execEmTick (id : Nat) (s : State) : Host.Outcome State Fault Refusal :=
  if id < s.params.M then
    let m := s.mod id
    if m.tbFlag then
      let nh := m.num.hard.toNat
      let ns := m.num.soft.toNat
      .next ((s.setMod id
        { m with
          tbFlag := false
          ev := { hard := tickBank nh m.ev.hard, soft := tickBank ns m.ev.soft } }).respond
        .ok 1 (BitVec.ofNat 32 (healedIn nh m.ev.hard + healedIn ns m.ev.soft)))
    else .next (s.respond .ok 0 0)
  else .next s.rangeError

/-- SET_HARD (R86): the set procedure with `k = H`. -/
def execSetHard (id i : Nat) (s : State) : Host.Outcome State Fault Refusal := .next (s.setProcedure id .hard i)

/-- SET_SOFT (R88): the set procedure with `k = S`; a soft latch has the effects of a hard one (R89). -/
def execSetSoft (id i : Nat) (s : State) : Host.Outcome State Fault Refusal := .next (s.setProcedure id .soft i)

end Sys2Proof.Machine
end

