-- ==== Sys2Proof/Machine/EventConfig.lean ====
section
/-! DEFINITION. Event-manager configuration: EM_INIT and EM_CFG_EVENT (40_event_config.md). -/

namespace Sys2Proof.Machine

/-- EM_INIT (R75). Latches and state are not touched (R75, D18). -/
def execEmInit (id freq numHard numSoft : Nat) (s : State) : Host.Outcome State Fault Refusal :=
  if id < s.params.M then
    let f := fEff s.params freq
    let nh := min numHard s.params.E
    let ns := min numSoft s.params.E
    .next ((s.setMod id
      { s.mod id with
        freq := BitVec.ofNat 32 f
        num := { hard := BitVec.ofNat 6 nh, soft := BitVec.ofNat 6 ns }
        tbFlag := false
        ev := { hard := defaultBank s.params, soft := defaultBank s.params } }).respond
      .ok (BitVec.ofNat 32 f) (BitVec.ofNat 32 ((ns <<< 8) ||| nh)))
  else .next s.rangeError

/-- EM_CFG_EVENT (R77). The index bound is `E`, not `num[k]`. -/
def execEmCfgEvent (id : Nat) (k : Kind) (i dUs rUs : Nat) (s : State) : Host.Outcome State Fault Refusal :=
  if id < s.params.M then
    if i < s.params.E then
      let f := (s.mod id).freq.toNat
      let dc := BitVec.ofNat CW (debounceCountOf s.params f dUs)
      let rc := BitVec.ofNat CW (resetCountOf s.params f dUs rUs)
      .next ((s.setEvent id k i { flag := false, counter := 0, debounceCount := dc, resetCount := rc }).respond .ok dc rc)
    else .next s.rangeError
  else .next s.rangeError

end Sys2Proof.Machine
end

