-- ==== Sys2Proof/Machine/LatchState.lean ====
section
/-! DEFINITION. Latch reset and module state: ITLK_RESET and WR_STATE (42_latch_state.md). -/

namespace Sys2Proof.Machine

/-- ITLK_RESET (R95). Event records are not changed (R96). -/
def execItlkReset (id : Nat) (safe : Bool) (s : State) : Host.Outcome State Fault Refusal :=
  if id < s.params.M then
    .next ((s.leaveLatch id safe).respond .ok (s.latch id .hard) (s.latch id .soft))
  else .next s.rangeError

/-- WR_STATE (R97). A value of 2^SW or more is rejected, not truncated; the latch registers are not checked (R98). -/
def execWrState (id value : Nat) (s : State) : Host.Outcome State Fault Refusal :=
  if id < s.params.M then
    if value < 2 ^ SW then
      .next ((s.setOpState id (BitVec.ofNat SW value)).respond .ok ((s.opState id).setWidth 32) 0)
    else .next s.rangeError
  else .next s.rangeError

end Sys2Proof.Machine
end

