-- ==== Sys2Proof/Machine/ReadBack.lean ====
section
/-! DEFINITION. Read-back and no-operation: RD_LATCH, RD_MODULE, RD_EVENT, RD_EVENT_CFG, RD_SLICE, NOP (44_readback.md).
None of them writes a register (R113). -/

namespace Sys2Proof.Machine

/-- NOP (R114): never RANGE, whatever its fields hold. -/
def execNop (s : State) : Host.Outcome State Fault Refusal := .next (s.respond .ok 0 0)

/-- RD_LATCH (R108). -/
def execRdLatch (id : Nat) (k : Kind) (s : State) : Host.Outcome State Fault Refusal :=
  if id < s.params.M then .next (s.respond .ok (s.latch id k) 0) else .next s.rangeError

/-- RD_MODULE (R109). The read does not consume `tb_flag`. -/
def execRdModule (id : Nat) (s : State) : Host.Outcome State Fault Refusal :=
  if id < s.params.M then .next (s.respond .ok (moduleWord (s.mod id)) (s.mod id).freq) else .next s.rangeError

/-- RD_EVENT (R110). The bound is `E`, not `num[k]`. -/
def execRdEvent (id : Nat) (k : Kind) (i : Nat) (s : State) : Host.Outcome State Fault Refusal :=
  if id < s.params.M then
    if i < s.params.E then
      let e := s.event id k i
      .next (s.respond .ok e.counter (eventWord e (s.latchBit id k i)))
    else .next s.rangeError
  else .next s.rangeError

/-- RD_EVENT_CFG (R111). -/
def execRdEventCfg (id : Nat) (k : Kind) (i : Nat) (s : State) : Host.Outcome State Fault Refusal :=
  if id < s.params.M then
    if i < s.params.E then
      let e := s.event id k i
      .next (s.respond .ok e.debounceCount e.resetCount)
    else .next s.rangeError
  else .next s.rangeError

/-- RD_SLICE (R112). -/
def execRdSlice (j : Nat) (s : State) : Host.Outcome State Fault Refusal :=
  if j < s.params.S then .next (s.respond .ok (s.slice j).counter (s.slice j).n) else .next s.rangeError

end Sys2Proof.Machine
end

