-- ==== Sys2Proof/Machine/TimeSlicer.lean ====
section
/-! DEFINITION. The decimating task scheduler: TS_CONFIG and TS_STEP (43_timeslicer.md). -/

namespace Sys2Proof.Machine

/-- TS_CONFIG (R100): the divisor is set and the counter cleared. -/
def execTsConfig (j targetHz masterHz : Nat) (s : State) : Host.Outcome State Fault Refusal :=
  if j < s.params.S then
    let n := BitVec.ofNat CW (divisor s.params targetHz masterHz)
    .next ((s.setSlice j { n := n, counter := 0 }).respond .ok n 0)
  else .next s.rangeError

/-- TS_STEP (R102): increment, then fire and restart when the counter reaches the divisor. -/
def execTsStep (j : Nat) (s : State) : Host.Outcome State Fault Refusal :=
  if j < s.params.S then
    let t := s.slice j
    let c := t.counter.toNat + 1
    if t.n.toNat ≤ c then
      .next ((s.setSlice j { t with counter := 0 }).respond .ok 1 0)
    else
      .next ((s.setSlice j { t with counter := BitVec.ofNat CW c }).respond .ok 0 (BitVec.ofNat CW c))
  else .next s.rangeError

end Sys2Proof.Machine
end

