-- ==== Sys2Proof/Machine/Dispatch.lean ====
section
/-! DEFINITION. One arm per command (30_encoding.md R57). -/

namespace Sys2Proof.Machine

/-- The meaning of a command: one indivisible update of registers, outputs and response (R17, R43). -/
def exec (i : Instr) (s : State) : Host.Outcome State Fault Refusal :=
  match i with
  | .nop => Sys2Proof.Machine.execNop s
  | .emInit id freq nh ns => Sys2Proof.Machine.execEmInit id freq nh ns s
  | .emCfgEvent id k e d r => Sys2Proof.Machine.execEmCfgEvent id k e d r s
  | .emTbSignal id => Sys2Proof.Machine.execEmTbSignal id s
  | .emTick id => Sys2Proof.Machine.execEmTick id s
  | .setHard id e => Sys2Proof.Machine.execSetHard id e s
  | .setSoft id e => Sys2Proof.Machine.execSetSoft id e s
  | .itlkReset id safe => Sys2Proof.Machine.execItlkReset id safe s
  | .wrState id value => Sys2Proof.Machine.execWrState id value s
  | .tsConfig j t m => Sys2Proof.Machine.execTsConfig j t m s
  | .tsStep j => Sys2Proof.Machine.execTsStep j s
  | .rdLatch id k => Sys2Proof.Machine.execRdLatch id k s
  | .rdModule id => Sys2Proof.Machine.execRdModule id s
  | .rdEvent id k e => Sys2Proof.Machine.execRdEvent id k e s
  | .rdEventCfg id k e => Sys2Proof.Machine.execRdEventCfg id k e s
  | .rdSlice j => Sys2Proof.Machine.execRdSlice j s

end Sys2Proof.Machine
end

