-- ==== Sys2Proof/Machine/Step.lean ====
section
/-! DEFINITION. One step of the block (00_scope.md R17), and the placing of a command where the next step takes it. -/

namespace Sys2Proof.Machine

/-- One step (R17): a parameter set outside R13 is refused; with `rst` asserted the block resets (R140); with no command
presented no register changes (R127); a reserved opcode answers ILLEGAL (R60); any other command runs its rule. -/
def step (s : State) : Host.Outcome State Fault Refusal :=
  if s.params.legal then
    if s.rstAsserted then .next s.resetStep
    else
      match s.chosen with
      | none => .next s.beginStep
      | some (_, c) =>
        match decode c with
        | .ok i => exec i s.beginStep
        | .error _ => .next s.beginStep.illegalError
  else .refused .illegalParameters

/-- `s` with the command of a table word presented on port 0 in the next step, and `rst` not asserted in it: the block
has no program memory (R21, R51), and a command comes to run by being presented (log 9). -/
def State.withFetchWord (s : State) (nbits w : Nat) : State :=
  { s with
    rstIn := false :: s.rstIn.tail
    port0In := Presented.command (tableCommand nbits w) :: s.port0In.tail }

end Sys2Proof.Machine
end

