-- ==== Sys2Proof/Machine/Assembler.lean ====
section
/-! DEFINITION. The assembler syntax of 30_encoding.md R63, its pseudo-instructions (R64) and its refusals (R65): from the
characters of a line to commands with the port that presents them. Requester-side notation only: no step of the block
reads it. Points R63 leaves open are DESIGN CHOICE, safe: log 16. -/

namespace Sys2Proof.Machine

/-- A command of an assembled program, with the port its line names, if it names one (R63). -/
structure AsmCommand where
  port : Option Port
  instr : Instr
deriving DecidableEq, Repr

/-- An operand of a line: an unsigned number, or a kind keyword (R63). -/
inductive Operand where
  | num (n : Nat)
  | kind (k : Kind)
deriving DecidableEq, Repr

/-! ## Words of a line -/

/-- Characters that separate the words of a line. -/
def isSeparator (c : Char) : Bool := c == ' ' || c == ',' || c == '\t'

/-- The word read so far, if there is one; `cur` holds it reversed. -/
def wordSoFar (cur : List Char) : List String := if cur = [] then [] else [String.ofList cur.reverse]

/-- The words of a line, up to a `;` ("Comments start with `;`", R63); `cur` holds the word being read, reversed. -/
def wordsFrom (cur : List Char) : List Char → List String
  | [] => wordSoFar cur
  | c :: cs =>
    if c == ';' then wordSoFar cur
    else if isSeparator c then wordSoFar cur ++ wordsFrom [] cs
    else wordsFrom (c :: cur) cs

/-- The words of a line. -/
def lineWords (line : String) : List String := wordsFrom [] line.toList

/-- The value of a digit, decimal or hexadecimal, either case. -/
def digitValue (c : Char) : Option Nat :=
  let n := c.toNat
  if 48 ≤ n ∧ n ≤ 57 then some (n - 48)
  else if 97 ≤ n ∧ n ≤ 102 then some (n - 87)
  else if 65 ≤ n ∧ n ≤ 70 then some (n - 55)
  else none

/-- Digits in a base, most significant first, continuing from `acc`. -/
def digitsFrom (base acc : Nat) : List Char → Option Nat
  | [] => some acc
  | c :: cs =>
    match digitValue c with
    | some d => if d < base then digitsFrom base (acc * base + d) cs else none
    | none => none

/-- A decimal or `0x` hexadecimal unsigned integer (R63). -/
def parseNumber (w : String) : Option Nat :=
  match w.toList with
  | [] => none
  | '0' :: 'x' :: c :: cs => digitsFrom 16 0 (c :: cs)
  | c :: cs => digitsFrom 10 0 (c :: cs)

/-- The state names of R29, which R63 admits as the value of WR_STATE. -/
def stateName : String → Option Nat
  | "OFF" => some 0
  | "INTERLOCK" => some 1
  | "INITIALIZING" => some 2
  | "SLOWREF" => some 3
  | "SLOWREF_SYNC" => some 4
  | "RMP_WFM" => some 5
  | "MIG_WFM" => some 6
  | "CYCLE" => some 7
  | _ => none

/-- An operand word: `H`, `S`, or a number (R63). -/
def parseOperand : String → Option Operand
  | "H" => some (.kind .hard)
  | "S" => some (.kind .soft)
  | w => (parseNumber w).map .num

/-- The operands of a line; WR_STATE's value may be a state name (R63). R63 admits the name for the value and is silent on
one in the id position: there too it is read as its code, so `WR_STATE OFF, 3` is `WR_STATE 0, 3`. DESIGN CHOICE, safe: log
16. -/
def parseOperands (mnemonic : String) (ws : List String) : Option (List Operand) :=
  ws.mapM fun w =>
    match parseOperand w with
    | some o => some o
    | none => if mnemonic = "WR_STATE" then (stateName w).map .num else none

/-! ## Lines -/

/-- SET_HARD or SET_SOFT by kind: the pseudo-instruction `SET id, k, i` (R64). -/
def setCommand (id : Nat) : Kind → Nat → Instr
  | .hard, i => .setHard id i
  | .soft, i => .setSoft id i

/-- The commands of one line: a command with its operands in the order of R63, or a pseudo-instruction and its expansion
(R64). -/
def expandLine : String → List Operand → Option (List Instr)
  | "NOP", [] => some [.nop]
  | "EM_INIT", [.num id, .num f, .num nh, .num ns] => some [.emInit id f nh ns]
  | "EM_CFG_EVENT", [.num id, .kind k, .num i, .num d, .num r] => some [.emCfgEvent id k i d r]
  | "EM_TB_SIGNAL", [.num id] => some [.emTbSignal id]
  | "EM_TICK", [.num id] => some [.emTick id]
  | "SET_HARD", [.num id, .num i] => some [.setHard id i]
  | "SET_SOFT", [.num id, .num i] => some [.setSoft id i]
  | "ITLK_RESET", [.num id, .num 0] => some [.itlkReset id false]
  | "ITLK_RESET", [.num id, .num 1] => some [.itlkReset id true]
  | "WR_STATE", [.num id, .num v] => some [.wrState id v]
  | "TS_CONFIG", [.num j, .num t, .num m] => some [.tsConfig j t m]
  | "TS_STEP", [.num j] => some [.tsStep j]
  | "RD_LATCH", [.num id, .kind k] => some [.rdLatch id k]
  | "RD_MODULE", [.num id] => some [.rdModule id]
  | "RD_EVENT", [.num id, .kind k, .num i] => some [.rdEvent id k i]
  | "RD_EVENT_CFG", [.num id, .kind k, .num i] => some [.rdEventCfg id k i]
  | "RD_SLICE", [.num j] => some [.rdSlice j]
  | "ITLK_RESET_UNSAFE", [.num id] => some [.itlkReset id false]
  | "ITLK_RESET_SAFE", [.num id] => some [.itlkReset id true]
  | "RD_HARD", [.num id] => some [.rdLatch id .hard]
  | "RD_SOFT", [.num id] => some [.rdLatch id .soft]
  | "SET", [.num id, .kind k, .num i] => some [setCommand id k i]
  | "PERIOD", [.num id] => some [.emTbSignal id, .emTick id]
  | _, _ => none

/-- A port prefix: `@0` or `@1` (R63). -/
def portPrefix : String → Option Port
  | "@0" => some .isr
  | "@1" => some .background
  | _ => none

/-- The commands of the words of one line, with the port prefix if the line opens with one; an operand that does not fit
its field is refused (R65). -/
def assembleWords (port : Option Port) : List String → Option (List AsmCommand)
  | [] => some []
  | mn :: ops =>
    match parseOperands mn ops with
    | none => none
    | some os =>
      match expandLine mn os with
      | none => none
      | some is => if is.all Instr.wf then some (is.map fun i => { port := port, instr := i }) else none

/-- The commands of one line. -/
def assembleLine (line : String) : Option (List AsmCommand) :=
  match lineWords line with
  | [] => some []
  | w :: ws =>
    match portPrefix w with
    | some p => assembleWords (some p) ws
    | none => assembleWords none (w :: ws)

/-! ## Programs -/

/-- The opening brace of a REPEAT block. -/
def openChar : Char := Char.ofNat 123

/-- The closing brace of a REPEAT block. -/
def closeChar : Char := Char.ofNat 125

def openBrace : String := String.ofList [openChar]

def closeBrace : String := String.ofList [closeChar]

/-- A line in pieces: an opening brace ends a piece, a closing brace is a piece of its own, and between two braces on one
line a `;` separates commands (as in P5 of 95_test_vectors.md) and does not open a comment; `cur` holds the piece being
read, reversed, and `depth` counts the braces this line has open. -/
def pieces (depth : Nat) (cur : List Char) : List Char → List String
  | [] => [String.ofList cur.reverse]
  | c :: cs =>
    if c = openChar then String.ofList (c :: ' ' :: cur).reverse :: pieces (depth + 1) [] cs
    else if c = closeChar then String.ofList cur.reverse :: closeBrace :: pieces (depth - 1) [] cs
    else if c = ';' then
      if depth ≠ 0 ∧ closeChar ∈ cs then String.ofList cur.reverse :: pieces depth [] cs
      else [String.ofList cur.reverse]
    else pieces depth (c :: cur) cs

/-- `REPEAT n` and an opening brace, as the words of a line (R64). A port prefix before the header (`@1 REPEAT 2` and the
brace) is refused: R63 lets a prefix open a line, and R64 does not say whether the header is such a line. The lines inside
the block may carry a prefix each. DESIGN CHOICE, safe: log 16. -/
def repeatHeader : List String → Option Nat
  | ["REPEAT", n, b] => if b = openBrace then parseNumber n else none
  | _ => none

/-- Lines to commands: `acc` is what the enclosing block has so far, `stack` the blocks that enclose it, each with its
repeat count. A closing brace writes the enclosed lines `n` times in order (R64). -/
def assembleFrom (acc : List AsmCommand) (stack : List (Nat × List AsmCommand)) : List String → Option (List AsmCommand)
  | [] => if stack = [] then some acc else none
  | line :: rest =>
    match repeatHeader (lineWords line) with
    | some n => assembleFrom [] ((n, acc) :: stack) rest
    | none =>
      if lineWords line = [closeBrace] then
        match stack with
        | [] => none
        | (n, outer) :: up => assembleFrom (outer ++ (List.replicate n acc).flatten) up rest
      else
        match assembleLine line with
        | some cs => assembleFrom (acc ++ cs) stack rest
        | none => none

/-- The commands of a program, one line each (R63, R64). -/
def assemble (lines : List String) : Option (List AsmCommand) :=
  assembleFrom [] [] (lines.flatMap fun l => pieces 0 [] l.toList)

end Sys2Proof.Machine
end

