-- ==== Sys2Proof/Safety.lean ====
section
/-! DEFINITION. The terms that claims are stated in: the registers of 10_state.md by name and how a state reads them;
what a command names and may write (R35, R59); frames; runs and the observation of a run (00_scope.md R18); and the
invariant of reachable states (10_state.md R25, R30). -/

namespace Sys2Proof.Machine

/-! ## Registers by name -/

/-- Every register of the block, as the table of R35 lists them. -/
inductive Reg where
  | freq (id : Nat)
  | num (id : Nat) (k : Kind)
  | tbFlag (id : Nat)
  | flag (id : Nat) (k : Kind) (i : Nat)
  | counter (id : Nat) (k : Kind) (i : Nat)
  | debounceCount (id : Nat) (k : Kind) (i : Nat)
  | resetCount (id : Nat) (k : Kind) (i : Nat)
  | latch (id : Nat) (k : Kind)
  | opState (id : Nat)
  | tsN (j : Nat)
  | tsCounter (j : Nat)
deriving DecidableEq, Repr

/-- The value of a register as an unsigned number (R14). -/
def State.read (s : State) : Reg → Nat
  | .freq id => (s.mod id).freq.toNat
  | .num id k => s.num id k
  | .tbFlag id => bitOf (s.mod id).tbFlag
  | .flag id k i => bitOf (s.event id k i).flag
  | .counter id k i => (s.event id k i).counter.toNat
  | .debounceCount id k i => (s.event id k i).debounceCount.toNat
  | .resetCount id k i => (s.event id k i).resetCount.toNat
  | .latch id k => (s.latch id k).toNat
  | .opState id => (s.opState id).toNat
  | .tsN j => (s.slice j).n.toNat
  | .tsCounter j => (s.slice j).counter.toNat

/-- The module a register belongs to; `none` for the slice registers. -/
def Reg.module : Reg → Option Nat
  | .freq id => some id
  | .num id _ => some id
  | .tbFlag id => some id
  | .flag id _ _ => some id
  | .counter id _ _ => some id
  | .debounceCount id _ _ => some id
  | .resetCount id _ _ => some id
  | .latch id _ => some id
  | .opState id => some id
  | .tsN _ => none
  | .tsCounter _ => none

/-- The slice a register belongs to; `none` for the module registers. -/
def Reg.slice : Reg → Option Nat
  | .tsN j => some j
  | .tsCounter j => some j
  | _ => none

end Sys2Proof.Machine

namespace Sys2Proof

/-! ## What a command names -/

/-- The module a command names; `none` for NOP and the slice commands (R55). -/
def Instr.module : Instr → Option Nat
  | .nop => none
  | .emInit id _ _ _ => some id
  | .emCfgEvent id _ _ _ _ => some id
  | .emTbSignal id => some id
  | .emTick id => some id
  | .setHard id _ => some id
  | .setSoft id _ => some id
  | .itlkReset id _ => some id
  | .wrState id _ => some id
  | .tsConfig _ _ _ => none
  | .tsStep _ => none
  | .rdLatch id _ => some id
  | .rdModule id => some id
  | .rdEvent id _ _ => some id
  | .rdEventCfg id _ _ => some id
  | .rdSlice _ => none

/-- The slice a command names; `none` for NOP and the module commands (R55). -/
def Instr.slice : Instr → Option Nat
  | .tsConfig j _ _ => some j
  | .tsStep j => some j
  | .rdSlice j => some j
  | _ => none

end Sys2Proof

namespace Sys2Proof.Machine

/-- The range checks of R59 in their order; true if one fails. -/
def rangeFails (s : State) (i : Instr) : Bool :=
  (match i.module with
    | some id => !decide (id < s.params.M)
    | none => false) ||
  (match i with
    | .setHard id e => !decide (e < s.read (.num id .hard))
    | .setSoft id e => !decide (e < s.read (.num id .soft))
    | .emCfgEvent _ _ e _ _ => !decide (e < s.params.E)
    | .rdEvent _ _ e => !decide (e < s.params.E)
    | .rdEventCfg _ _ e => !decide (e < s.params.E)
    | _ => false) ||
  (match i.slice with
    | some j => !decide (j < s.params.S)
    | none => false) ||
  (match i with
    | .wrState _ v => !decide (v < 2 ^ SW)
    | _ => false)

/-- The "written by" column of R35: may this command write this register? -/
def Reg.writtenBy : Reg → Instr → Bool
  | .freq id, .emInit id' _ _ _ => id == id'
  | .num id _, .emInit id' _ _ _ => id == id'
  | .tbFlag id, .emTbSignal id' => id == id'
  | .tbFlag id, .emTick id' => id == id'
  | .tbFlag id, .emInit id' _ _ _ => id == id'
  | .flag id k i, .setHard id' i' => id == id' && k == .hard && i == i'
  | .flag id k i, .setSoft id' i' => id == id' && k == .soft && i == i'
  | .flag id _ _, .emTick id' => id == id'
  | .flag id _ _, .emInit id' _ _ _ => id == id'
  | .flag id k i, .emCfgEvent id' k' i' _ _ => id == id' && k == k' && i == i'
  | .counter id k i, .setHard id' i' => id == id' && k == .hard && i == i'
  | .counter id k i, .setSoft id' i' => id == id' && k == .soft && i == i'
  | .counter id _ _, .emTick id' => id == id'
  | .counter id _ _, .emInit id' _ _ _ => id == id'
  | .counter id k i, .emCfgEvent id' k' i' _ _ => id == id' && k == k' && i == i'
  | .debounceCount id _ _, .emInit id' _ _ _ => id == id'
  | .debounceCount id k i, .emCfgEvent id' k' i' _ _ => id == id' && k == k' && i == i'
  | .resetCount id _ _, .emInit id' _ _ _ => id == id'
  | .resetCount id k i, .emCfgEvent id' k' i' _ _ => id == id' && k == k' && i == i'
  | .latch id k, .setHard id' _ => id == id' && k == .hard
  | .latch id k, .setSoft id' _ => id == id' && k == .soft
  | .latch id _, .itlkReset id' _ => id == id'
  | .opState id, .setHard id' _ => id == id'
  | .opState id, .setSoft id' _ => id == id'
  | .opState id, .itlkReset id' _ => id == id'
  | .opState id, .wrState id' _ => id == id'
  | .tsN j, .tsConfig j' _ _ => j == j'
  | .tsCounter j, .tsConfig j' _ _ => j == j'
  | .tsCounter j, .tsStep j' => j == j'
  | _, _ => false

/-! ## What a step leaves unchanged and what it puts out -/

/-- Every register outside `written` reads as before, and the parameters, the held command, the inputs and the note of
the taken command are as before. -/
def Frame (written : Reg → Prop) (s t : State) : Prop :=
  t.params = s.params ∧ t.held = s.held ∧ t.rstIn = s.rstIn ∧ t.port0In = s.port0In ∧ t.port1In = s.port1In ∧
    t.out.accepted = s.out.accepted ∧ ∀ r : Reg, ¬ written r → t.read r = s.read r

/-- The `TurnOff` events added are those of the modules `ids`, in that order. -/
def Emits (ids : List Nat) (s t : State) : Prop := t.out.turnOff = s.out.turnOff ++ ids

/-- The response is `(st, a, b)`. -/
def Responds (st : Status) (a b : Nat) (t : State) : Prop :=
  t.out.response = some { status := st, a := BitVec.ofNat 32 a, b := BitVec.ofNat 32 b }

/-- `respond(RANGE, 0, 0)` and nothing else: no register changes and no `TurnOff` is emitted (R121). -/
def RangeOnly (s t : State) : Prop := Responds .range 0 0 t ∧ Emits [] s t ∧ Frame (fun _ => False) s t

/-! ## Runs and the observation -/

/-- The state after a sequence of commands, each executed in the state the one before it leaves (R47); `none` if one
does not answer a next state. The `TurnOff` events of the sequence collect in `out.turnOff`. -/
def execAll : List Instr → State → Option State
  | [], s => some s
  | i :: is, s =>
    match exec i s with
    | .next t => execAll is t
    | .fault _ => none
    | .refused _ => none

/-- The state after `n` steps; `none` if one does not answer a next state. -/
def stepAll : Nat → State → Option State
  | 0, s => some s
  | n + 1, s =>
    match step s with
    | .next t => stepAll n t
    | .fault _ => none
    | .refused _ => none

/-- One entry of the observation (R18): an accepted command with its port, its response, and every `TurnOff` event of
that step. -/
structure Observation where
  port : Port
  command : Command
  response : Option Response
  turnOff : List Nat
deriving DecidableEq, Repr

/-- What a step's outputs add to the observation. -/
def StepOutput.observe (o : StepOutput) : List Observation :=
  match o.accepted with
  | some (p, c) => [{ port := p, command := c, response := o.response, turnOff := o.turnOff }]
  | none => []

/-- The observation of the first `n` steps (R18, R139). -/
def trace : Nat → State → List Observation
  | 0, _ => []
  | n + 1, s =>
    match step s with
    | .next t => t.out.observe ++ trace n t
    | .fault _ => []
    | .refused _ => []

/-- The commands accepted from port `p` in an observation, in order. -/
def acceptedFrom (p : Port) (os : List Observation) : List Command :=
  os.filterMap fun o => if o.port = p then some o.command else none

/-- The ticks that a sequence of commands consumes on module `id` (R91): its EM_TICKs on that module that find
`tb_flag = 1`. -/
def ticksConsumed (id : Nat) : List Instr → State → Nat
  | [], _ => 0
  | i :: is, s =>
    match exec i s with
    | .next t => (if i = .emTick id ∧ s.read (.tbFlag id) = 1 then 1 else 0) + ticksConsumed id is t
    | .fault _ => 0
    | .refused _ => 0

/-! ## The invariant of reachable states -/

/-- R25 for one event record of a module with time-base frequency `f`. -/
abbrev Event.ok (p : Params) (f : Nat) (e : Event) : Prop :=
  (e.flag = false → e.counter = 0) ∧ e.counter.toNat < e.resetCount.toNat ∧
    e.debounceCount.toNat < e.resetCount.toNat ∧ e.resetCount.toNat ≤ maxResetCounts p f ∧
    e.debounceCount.toNat ≤ ticks f p.maxDebounceUs

/-- One kind of a module: `num` in [0, E] (R23), `E` records (R24) that meet R25, the unconfigured ones idle (R82), and
no latch bit above `E` (R28, R108). -/
abbrev bankOk (p : Params) (f n : Nat) (bank : List Event) (latch : BitVec 32) : Prop :=
  n ≤ p.E ∧ bank.length = p.E ∧ latch.toNat < 2 ^ p.E ∧ (∀ e ∈ bank, e.ok p f) ∧ ∀ e ∈ bank.drop n, e.flag = false

/-- One module: `freq` in [1, F_MAX] (R22) and both kinds in order. -/
abbrev ModuleRegs.ok (p : Params) (m : ModuleRegs) : Prop :=
  1 ≤ m.freq.toNat ∧ m.freq.toNat ≤ p.fMax ∧
    bankOk p m.freq.toNat m.num.hard.toNat m.ev.hard m.latch.hard ∧
    bankOk p m.freq.toNat m.num.soft.toNat m.ev.soft m.latch.soft

/-- One slice: `counter < N` and `N` in [1, N_MAX] (R30). -/
abbrev Slice.ok (p : Params) (t : Slice) : Prop := t.counter.toNat < t.n.toNat ∧ t.n.toNat ≤ p.nMax

/-- The invariant of reachable states: a legal parameter set (R13), `M` modules and `S` slices, each in order. -/
abbrev State.Inv (s : State) : Prop :=
  s.params.legal = true ∧ s.modules.length = s.params.M ∧ s.slices.length = s.params.S ∧
    (∀ m ∈ s.modules, m.ok s.params) ∧ ∀ t ∈ s.slices, t.ok s.params

end Sys2Proof.Machine
end

