-- ==== Sys2Proof/Certificates/Slice0/Obligations.lean ====
section
/-! DEFINITION. The statements for the provers. Registers are read by name (`State.read`), so that a statement says what
the spec's rule says of the register and not how the model stores it. `s.Inv` is the invariant of reachable states
(R13, R22 to R25, R28, R30); that every step keeps it is `StepKeepsInvariant`. -/

open Sys2Proof Sys2Proof.Machine

/-! ## Encoding -/

/-- The spec's own encoding examples (30_encoding.md R57, R65; 95_test_vectors.md W7, 2.8). -/
def Obligations.SpecWordsDecode : Prop :=
  decode ⟨0x00000000, 0, 0⟩ = .ok .nop ∧
  decode ⟨0x01000000, 0x000003E8, 0x00000203⟩ = .ok (.emInit 0 1000 3 2) ∧
  decode ⟨0x02180400, 0x00002710, 0x00004E20⟩ = .ok (.emCfgEvent 1 .soft 4 10000 20000) ∧
  decode ⟨0x05280500, 0, 0⟩ = .ok (.setSoft 2 5) ∧
  decode ⟨0x050700FF, 0, 0⟩ = .ok (.setHard 0 0) ∧
  decode ⟨0x08000300, 0x000003E8, 0x00004E20⟩ = .ok (.tsConfig 3 1000 20000) ∧
  decode ⟨0x0FF00000, 0, 0⟩ = .error (.reservedOpcode 0x0F)

/-- Decoding the words of any encodable command gives it back, every operand at every value its field admits. -/
def Obligations.DecodeOfEncodeIsIdentity : Prop :=
  ∀ i : Instr, i.wf = true → decode (encode i) = .ok i

/-- What the decoder answers is encodable: every operand fits the field it was read from (R53 to R55). -/
def Obligations.DecodedCommandsAreEncodable : Prop :=
  ∀ (c : Command) (i : Instr), decode c = .ok i → i.wf = true

/-- R58: for every header word exactly one row of R57 selects the command, or the opcode is reserved and none does. -/
def Obligations.DecoderIsTotalAndUnambiguous : Prop :=
  ∀ w0 : Word,
    if opcodeReserved (w0.extractLsb' 24 8).toNat = true then
      (∀ r ∈ opcodeMap, r.selects w0 = false) ∧
        ∀ w1 w2, decode ⟨w0, w1, w2⟩ = .error (.reservedOpcode (w0.extractLsb' 24 8).toNat)
    else
      ∃ r ∈ opcodeMap, r.selects w0 = true ∧ (∀ r' ∈ opcodeMap, r'.selects w0 = true → r' = r) ∧
        ∀ w1 w2, ∃ i, decode ⟨w0, w1, w2⟩ = .ok i ∧ i.mnemonic = r.mnemonic

/-- R61: two commands that agree on the selecting bits and on the bits the command reads (R55) are the same command;
every other bit of an assembled command is 0; and OP 0x00 is NOP whatever the other fields hold. -/
def Obligations.IgnoredBitsHaveNoEffect : Prop :=
  (∀ r ∈ opcodeMap, ∀ c c' : Command, r.selects c.w0 = true →
      c.w0 &&& (r.mask ||| r.readsW0) = c'.w0 &&& (r.mask ||| r.readsW0) →
      c.w1 &&& r.readsA = c'.w1 &&& r.readsA → c.w2 &&& r.readsB = c'.w2 &&& r.readsB →
      decode c = decode c') ∧
  (∀ r ∈ opcodeMap, ∀ i : Instr, i.mnemonic = r.mnemonic →
      (encode i).w0 &&& ~~~(r.mask ||| r.readsW0) = 0 ∧ (encode i).w1 &&& ~~~r.readsA = 0 ∧
      (encode i).w2 &&& ~~~r.readsB = 0) ∧
  ∀ c : Command, (c.w0.extractLsb' 24 8).toNat = 0 → decode c = .ok .nop

/-- Every command is three words, and a decoder tells where it ends by counting them (R62); on a byte link (R41) that is
twelve bytes, W0, W1, W2 with the least significant byte first. That a byte decoder reads twelve bytes, leaves what follows
and answers incomplete on fewer is the model's reading of R41, R42 and R62 (DEDUCED, log 18). -/
def Obligations.CommandsAreTwelveBytes : Prop :=
  (∀ (c : Command) (rest : List Byte), c.bytes.length = 12 ∧
      decodeBytes (c.bytes ++ rest) =
        match decode c with
        | .ok i => .ok (i, rest)
        | .error e => .error e) ∧
  (∀ bs : List Byte, bs.length < 12 → decodeBytes bs = .error (.incomplete bs.length)) ∧
  ∀ (c : Command) (n : Nat), n < 4 →
    c.bytes[n]? = some (c.w0.extractLsb' (8 * n) 8) ∧ c.bytes[4 + n]? = some (c.w1.extractLsb' (8 * n) 8) ∧
    c.bytes[8 + n]? = some (c.w2.extractLsb' (8 * n) 8)

/-- The pseudo-instructions of R64 that stand on one line, and their expansions. -/
def Obligations.PseudoInstructionsExpand : Prop :=
  ∀ id i : Nat,
    expandLine "ITLK_RESET_UNSAFE" [.num id] = some [.itlkReset id false] ∧
    expandLine "ITLK_RESET_SAFE" [.num id] = some [.itlkReset id true] ∧
    expandLine "RD_HARD" [.num id] = some [.rdLatch id .hard] ∧
    expandLine "RD_SOFT" [.num id] = some [.rdLatch id .soft] ∧
    expandLine "SET" [.num id, .kind .hard, .num i] = some [.setHard id i] ∧
    expandLine "SET" [.num id, .kind .soft, .num i] = some [.setSoft id i] ∧
    expandLine "PERIOD" [.num id] = some [.emTbSignal id, .emTick id]

/-! ## Steps, ports, reset -/

/-- A step runs the decoded command: with legal parameters, `rst` not asserted and a whole command chosen, the step is
`exec` of the decoded command in the state in which the inputs have moved on one step, the held command is updated, the
outputs of the step before are withdrawn, and no register has changed. The schedules that move on are the model's
inputs (log 5, log 6). -/
def Obligations.StepRunsTheDecodedCommand : Prop :=
  ∀ (s : State) (p : Port) (c : Command) (i : Instr),
    s.params.legal = true → s.rstAsserted = false → s.chosen = some (p, c) → decode c = .ok i →
      step s = exec i s.beginStep ∧
      s.beginStep.params = s.params ∧ (∀ r : Reg, s.beginStep.read r = s.read r) ∧
      s.beginStep.out = { accepted := some (p, c), response := none, turnOff := [] } ∧
      s.beginStep.held = (if p = .isr then s.presented1 else none) ∧
      s.beginStep.rstIn = s.rstIn.tail ∧ s.beginStep.port0In = s.port0In.tail ∧
      s.beginStep.port1In = (if s.held = none then s.port1In.tail else s.port1In)

/-- R127: with both ports presenting, port 0's command is taken and port 1's is held; with one presenting, that one is
taken; with neither, no command is taken and nothing is held. What the ports present stands in the model's input schedules
(log 5, log 6). -/
def Obligations.ArbiterTakesPortZeroFirst : Prop :=
  ∀ s : State, s.params.legal = true → s.rstAsserted = false →
    (∀ c0 c1, s.presented0 = some c0 → s.presented1 = some c1 →
      ∃ t, step s = .next t ∧ t.out.accepted = some (.isr, c0) ∧ t.held = some c1) ∧
    (∀ c0, s.presented0 = some c0 → s.presented1 = none →
      ∃ t, step s = .next t ∧ t.out.accepted = some (.isr, c0) ∧ t.held = none) ∧
    (∀ c1, s.presented0 = none → s.presented1 = some c1 →
      ∃ t, step s = .next t ∧ t.out.accepted = some (.background, c1) ∧ t.held = none) ∧
    (s.presented0 = none → s.presented1 = none →
      ∃ t, step s = .next t ∧ t.out = { accepted := none, response := none, turnOff := [] } ∧ t.held = none ∧
        ∀ r : Reg, t.read r = s.read r)

/-- R42: a step takes a command only if all three words of it are present on its port (or it is the held command);
fewer than three words are no command. The schedules are the model's inputs (log 5, log 7). -/
def Obligations.OnlyWholeCommandsAreTaken : Prop :=
  ∀ (s t : State), step s = .next t →
    (∀ c, t.out.accepted = some (.isr, c) → s.port0In.head? = some (.command c)) ∧
    (∀ c, t.out.accepted = some (.background, c) →
      s.held = some c ∨ (s.held = none ∧ s.port1In.head? = some (.command c))) ∧
    (t.out.accepted = none → s.rstAsserted = false →
      t.out.response = none ∧ t.out.turnOff = [] ∧ ∀ r : Reg, t.read r = s.read r)

/-- R60: a reserved opcode, whatever its other fields hold (R122: ILLEGAL before RANGE), gets ILLEGAL and changes no
register and emits nothing. -/
def Obligations.ReservedOpcodeAnswersIllegal : Prop :=
  ∀ (s : State) (p : Port) (c : Command),
    s.params.legal = true → s.rstAsserted = false → s.chosen = some (p, c) →
    ((0x0A ≤ (c.w0.extractLsb' 24 8).toNat ∧ (c.w0.extractLsb' 24 8).toNat ≤ 0x0F) ∨
      (0x15 ≤ (c.w0.extractLsb' 24 8).toNat ∧ (c.w0.extractLsb' 24 8).toNat ≤ 0xFF)) →
      ∃ t, step s = .next t ∧ t.out.accepted = some (p, c) ∧ Responds .illegal 0 0 t ∧ t.out.turnOff = [] ∧
        ∀ r : Reg, t.read r = s.read r

/-- R121, R137: with legal parameters every step answers a next state; nothing traps or halts. That no step writes the
parameters is the model's choice of holding them in State (log 1), after R10 and R33: they are fixed in a run. -/
def Obligations.NoStepStops : Prop :=
  ∀ s : State, s.params.legal = true → ∃ t, step s = .next t ∧ t.params = s.params

/-- R66, R120: exactly the steps that take a command respond, to the port that presented it, with status code 0, 1 or
2, and with both results 0 when the status is not OK. -/
def Obligations.OneResponsePerCommand : Prop :=
  ∀ (s t : State), step s = .next t →
    (t.out.response.isSome = t.out.accepted.isSome) ∧
    (∀ p, (t.responseTo p).isSome = true ↔ ∃ c, t.out.accepted = some (p, c)) ∧
    ∀ p r, t.responseTo p = some r →
      (r.words.1 = 0 ∨ r.words.1 = 1 ∨ r.words.1 = 2) ∧ (r.words.1 ≠ 0 → r.words.2.1 = 0 ∧ r.words.2.2 = 0)

/-- R140, R142: while `rst` is asserted the block takes no command and gives no response; a presented or held command
is not executed; every register holds its reset value. That an asserted `rst` is a step of its own is the model's reading
(log 8). -/
def Obligations.AssertedResetDiscardsAndResets : Prop :=
  ∀ s : State, s.params.legal = true → s.rstAsserted = true →
    ∃ t, step s = .next t ∧ t.out = { accepted := none, response := none, turnOff := [] } ∧ t.held = none ∧
      t.params = s.params ∧ ∀ r : Reg, t.read r = (State.resetWith s.params).read r

/-- R141: the reset value of every register, for every legal parameter set. -/
def Obligations.ResetValuesAreTheTables : Prop :=
  ∀ p : Params, p.legal = true →
    (∀ id, id < p.M →
      (State.resetWith p).read (.freq id) = 1 ∧ (State.resetWith p).read (.tbFlag id) = 0 ∧
      (State.resetWith p).read (.opState id) = 0 ∧
      (State.resetWith p).operating id = false ∧ (State.resetWith p).latched id = false ∧
      ∀ k, (State.resetWith p).read (.num id k) = p.E ∧ (State.resetWith p).read (.latch id k) = 0 ∧
        ∀ i, i < p.E →
          (State.resetWith p).read (.flag id k i) = 0 ∧ (State.resetWith p).read (.counter id k i) = 0 ∧
          (State.resetWith p).read (.debounceCount id k i) = 0 ∧ (State.resetWith p).read (.resetCount id k i) = 1) ∧
    (∀ j, j < p.S → (State.resetWith p).read (.tsN j) = 1 ∧ (State.resetWith p).read (.tsCounter j) = 0) ∧
    (State.resetWith p).held = none ∧ (State.resetWith p).out.turnOff = []

/-- R13 with the ranges of R4 to R6: a step refuses exactly the other parameter sets, and the defaults are legal. That
`F_MAX` is at least 1 is read from R22 (DEDUCED, log 3). -/
def Obligations.ParameterConstraintsAreChecked : Prop :=
  (∀ p : Params, p.legal = true ↔
    (1 ≤ p.M ∧ p.M ≤ 16 ∧ 1 ≤ p.E ∧ p.E ≤ 32 ∧ 1 ≤ p.S ∧ p.S ≤ 256 ∧ 1 ≤ p.fMax ∧
      ticks p.fMax p.maxResetUs ≤ 2 ^ 32 - 1 ∧
      (∀ f, 1 ≤ f → f ≤ p.fMax → ticks f p.maxDebounceUs + 1 ≤ ticks f p.maxResetUs) ∧
      1 ≤ p.nMax ∧ p.nMax ≤ 2 ^ 32 - 1)) ∧
  (∀ s : State, s.params.legal = false → step s = .refused .illegalParameters) ∧
  Params.default.legal = true

/-- No command is lost, doubled or reordered on its port (R127, R47): over `n` steps without `rst`, the commands
accepted from a port, followed by what the port still has, are what it had before. The input schedules are the model's
(log 5, log 6). -/
def Obligations.PortsKeepTheirCommandsInOrder : Prop :=
  ∀ (n : Nat) (s t : State), s.params.legal = true → (∀ b ∈ s.rstIn, b = false) → stepAll n s = some t →
    acceptedFrom .isr (trace n s) ++ t.port0In.filterMap Presented.whole = s.port0In.filterMap Presented.whole ∧
    acceptedFrom .background (trace n s) ++ (t.held.toList ++ t.port1In.filterMap Presented.whole) =
      s.held.toList ++ s.port1In.filterMap Presented.whole

/-- R152: while port 0 presents a command in every step, no command of port 1 is taken, and a held one stays held. The input
schedules are the model's (log 5, log 6). -/
def Obligations.BusyPortZeroStarvesPortOne : Prop :=
  ∀ (n : Nat) (s : State) (c : Command) (cs : List Command), s.params.legal = true → (∀ b ∈ s.rstIn, b = false) →
    s.held = some c → cs.length = n → s.port0In = cs.map Presented.command →
      ∃ t, stepAll n s = some t ∧ acceptedFrom .background (trace n s) = [] ∧
        acceptedFrom .isr (trace n s) = cs ∧ t.held = some c

/-! ## The invariant -/

/-- The state after reset meets the invariant. -/
def Obligations.ResetMeetsTheInvariant : Prop := State.reset.Inv

/-- Every step keeps the invariant: R25 of every event record, the bounds of R22, R23 and R30, idle records beyond
`num[k]` (R82), no latch bit above `E` (R28). -/
def Obligations.StepKeepsInvariant : Prop :=
  ∀ s t : State, s.Inv → step s = .next t → t.Inv

/-- R143: for every legal parameter set the reset state meets the invariant, every module has `E` events of each kind with
`debounce_count = 0`, and any SET with `i < E` latches at once, emits `TurnOff` and forces INTERLOCK. -/
def Obligations.ResetStateIsFailSafe : Prop :=
  ∀ p : Params, p.legal = true → (State.resetWith p).Inv ∧
    ∀ id k, id < p.M → (State.resetWith p).read (.num id k) = p.E ∧ ∀ i, i < p.E →
      (State.resetWith p).read (.debounceCount id k i) = 0 ∧
      ∃ t, exec (setCommand id k i) (State.resetWith p) = .next t ∧ Responds .ok 1 0 t ∧ t.out.turnOff = [id] ∧
        t.read (.opState id) = 1 ∧ t.read (.latch id k) = 2 ^ i

/-! ## Conversion functions -/

/-- R70: `ticks` is `f * us / 10^6` rounded to the nearest integer with ties up, monotone in each argument, and 0 at 0. -/
def Obligations.TicksRoundsTiesUp : Prop :=
  (∀ f us n : Nat, ticks f us = n ↔ 2000000 * n ≤ 2 * (f * us) + 1000000 ∧ 2 * (f * us) + 1000000 < 2000000 * (n + 1)) ∧
  (∀ f f' us us' : Nat, f ≤ f' → us ≤ us' → ticks f us ≤ ticks f' us') ∧
  ∀ f, ticks f 0 = 0

/-- R71, R72, R73: the clamps, and `0 <= dc < rc <= max_reset_counts(f)` for every legal parameter set. -/
def Obligations.ConfiguredCountsAreClamped : Prop :=
  ∀ p : Params, p.legal = true →
    (∀ freq, fEff p freq = if freq = 0 then 1 else if p.fMax < freq then p.fMax else freq) ∧
    ∀ f d r : Nat, 1 ≤ f → f ≤ p.fMax →
      debounceCountOf p f d = (if d ≤ p.maxDebounceUs then ticks f d else ticks f p.maxDebounceUs) ∧
      debounceCountOf p f d ≤ ticks f p.maxDebounceUs ∧
      resetCountOf p f d r =
        (if debounceCountOf p f d < ticks f (min r p.maxResetUs) then ticks f (min r p.maxResetUs)
          else debounceCountOf p f d + 1) ∧
      debounceCountOf p f d < resetCountOf p f d r ∧ resetCountOf p f d r ≤ ticks f p.maxResetUs

/-- R101: `N_MAX` for a zero target; else `m / t` rounded to the nearest integer with ties up, at most 2^32 - 1 for a
32-bit `m`, clamped to [1, N_MAX]. -/
def Obligations.DivisorRoundsAndClamps : Prop :=
  ∀ p : Params, p.legal = true → ∀ m : Nat, m < 2 ^ 32 →
    divisor p 0 m = p.nMax ∧
    ∀ t, 1 ≤ t → ∃ q, q ≤ 2 ^ 32 - 1 ∧ 2 * t * q ≤ 2 * m + t ∧ 2 * m + t < 2 * t * (q + 1) ∧
      divisor p t m = (if q < 1 then 1 else if p.nMax < q then p.nMax else q) ∧
      1 ≤ divisor p t m ∧ divisor p t m ≤ p.nMax

/-! ## The commands, one by one -/

/-- NOP (R114): every field ignored, status OK, results 0, never RANGE. -/
def Obligations.NopOnlyResponds : Prop :=
  (∀ c : Command, (c.w0.extractLsb' 24 8).toNat = 0x00 → decode c = .ok .nop) ∧
  ∀ s : State, ∃ t, exec .nop s = .next t ∧ Responds .ok 0 0 t ∧ Emits [] s t ∧ Frame (fun _ => False) s t

/-- EM_INIT (R75): the clamped frequency and counts are stored, `tb_flag` is cleared, every event record of the module is
the default record; latches, state and every other module are as before. -/
def Obligations.EmInitInitialisesTheModule : Prop :=
  (∀ c : Command, (c.w0.extractLsb' 24 8).toNat = 0x01 →
    decode c = .ok (.emInit (c.w0.extractLsb' 20 4).toNat c.w1.toNat (c.w2.extractLsb' 0 8).toNat
      (c.w2.extractLsb' 8 8).toNat)) ∧
  (∀ (s : State) (id freq nh ns : Nat), s.Inv → freq < 2 ^ 32 → id < s.params.M →
    ∃ t, exec (.emInit id freq nh ns) s = .next t ∧
      t.read (.freq id) = min (max freq 1) s.params.fMax ∧
      t.read (.num id .hard) = min nh s.params.E ∧ t.read (.num id .soft) = min ns s.params.E ∧
      t.read (.tbFlag id) = 0 ∧
      (∀ k i, i < s.params.E → t.read (.flag id k i) = 0 ∧ t.read (.counter id k i) = 0 ∧
        t.read (.debounceCount id k i) = 0 ∧ t.read (.resetCount id k i) = 1) ∧
      Responds .ok (min (max freq 1) s.params.fMax) (256 * min ns s.params.E + min nh s.params.E) t ∧ Emits [] s t ∧
      Frame (fun r => r = .freq id ∨ (∃ k, r = .num id k) ∨ r = .tbFlag id ∨
        ∃ k i, r = .flag id k i ∨ r = .counter id k i ∨ r = .debounceCount id k i ∨ r = .resetCount id k i) s t) ∧
  ∀ (s : State) (id freq nh ns : Nat), s.params.M ≤ id →
    ∃ t, exec (.emInit id freq nh ns) s = .next t ∧ RangeOnly s t

/-- EM_CFG_EVENT (R77, R78): the counts converted at the module's present frequency are stored and the event is idle;
the stored values depend on nothing else. -/
def Obligations.EmCfgEventConfiguresTheEvent : Prop :=
  (∀ c : Command, (c.w0.extractLsb' 24 8).toNat = 0x02 →
    decode c = .ok (.emCfgEvent (c.w0.extractLsb' 20 4).toNat
      (if (c.w0.extractLsb' 19 1).toNat = 0 then .hard else .soft) (c.w0.extractLsb' 8 8).toNat c.w1.toNat c.w2.toNat)) ∧
  (∀ (s : State) (id : Nat) (k : Kind) (i d r : Nat), s.Inv → id < s.params.M → i < s.params.E →
    ∃ t, exec (.emCfgEvent id k i d r) s = .next t ∧
      t.read (.flag id k i) = 0 ∧ t.read (.counter id k i) = 0 ∧
      t.read (.debounceCount id k i) = ticks (s.read (.freq id)) (min d s.params.maxDebounceUs) ∧
      t.read (.resetCount id k i) =
        max (ticks (s.read (.freq id)) (min r s.params.maxResetUs)) (t.read (.debounceCount id k i) + 1) ∧
      Responds .ok (t.read (.debounceCount id k i)) (t.read (.resetCount id k i)) t ∧ Emits [] s t ∧
      Frame (fun x => x = .flag id k i ∨ x = .counter id k i ∨ x = .debounceCount id k i ∨ x = .resetCount id k i) s t) ∧
  ∀ (s : State) (id : Nat) (k : Kind) (i d r : Nat), s.params.M ≤ id ∨ s.params.E ≤ i →
    ∃ t, exec (.emCfgEvent id k i d r) s = .next t ∧ RangeOnly s t

/-- EM_TB_SIGNAL (R80): `tb_flag` is set and its previous value returned. -/
def Obligations.EmTbSignalSetsTheFlag : Prop :=
  (∀ c : Command, (c.w0.extractLsb' 24 8).toNat = 0x03 → decode c = .ok (.emTbSignal (c.w0.extractLsb' 20 4).toNat)) ∧
  (∀ (s : State) (id : Nat), s.Inv → id < s.params.M →
    ∃ t, exec (.emTbSignal id) s = .next t ∧ t.read (.tbFlag id) = 1 ∧ Responds .ok (s.read (.tbFlag id)) 0 t ∧
      Emits [] s t ∧ Frame (fun r => r = .tbFlag id) s t) ∧
  ∀ (s : State) (id : Nat), s.params.M ≤ id → ∃ t, exec (.emTbSignal id) s = .next t ∧ RangeOnly s t

/-- EM_TICK (R82 to R84): with `tb_flag = 1` the flag is cleared and every configured flagged event of both kinds counts
one, or clears when it reaches its reset count; the number cleared is returned. With `tb_flag = 0` nothing changes. -/
def Obligations.EmTickAdvancesFlaggedEvents : Prop :=
  (∀ c : Command, (c.w0.extractLsb' 24 8).toNat = 0x04 → decode c = .ok (.emTick (c.w0.extractLsb' 20 4).toNat)) ∧
  (∀ (s : State) (id : Nat), s.Inv → id < s.params.M → s.read (.tbFlag id) = 1 →
    ∃ t, exec (.emTick id) s = .next t ∧ t.read (.tbFlag id) = 0 ∧
      (∀ k i, i < s.read (.num id k) → s.read (.flag id k i) = 1 →
        s.read (.counter id k i) + 1 < s.read (.resetCount id k i) →
          t.read (.flag id k i) = 1 ∧ t.read (.counter id k i) = s.read (.counter id k i) + 1) ∧
      (∀ k i, i < s.read (.num id k) → s.read (.flag id k i) = 1 →
        s.read (.resetCount id k i) ≤ s.read (.counter id k i) + 1 →
          t.read (.flag id k i) = 0 ∧ t.read (.counter id k i) = 0) ∧
      (∃ h, Responds .ok 1 h t ∧ h ≤ 2 * s.params.E ∧
        h = ((List.range (s.read (.num id .hard))).countP fun i =>
              decide (s.read (.flag id .hard i) = 1 ∧
                s.read (.resetCount id .hard i) ≤ s.read (.counter id .hard i) + 1)) +
            ((List.range (s.read (.num id .soft))).countP fun i =>
              decide (s.read (.flag id .soft i) = 1 ∧
                s.read (.resetCount id .soft i) ≤ s.read (.counter id .soft i) + 1))) ∧
      Emits [] s t ∧
      Frame (fun r => r = .tbFlag id ∨ ∃ k i, i < s.read (.num id k) ∧ s.read (.flag id k i) = 1 ∧
        (r = .flag id k i ∨ r = .counter id k i)) s t) ∧
  (∀ (s : State) (id : Nat), id < s.params.M → s.read (.tbFlag id) = 0 →
    ∃ t, exec (.emTick id) s = .next t ∧ Responds .ok 0 0 t ∧ Emits [] s t ∧ Frame (fun _ => False) s t) ∧
  ∀ (s : State) (id : Nat), s.params.M ≤ id → ∃ t, exec (.emTick id) s = .next t ∧ RangeOnly s t

/-- The set procedure of R86 for the command `set id i` of kind `k`: outcome 0 below the threshold, 1 when the latch bit
was clear, 2 when it was set; RANGE beyond `num[k]`. -/
def Sys2Proof.Claims.FollowsSetProcedure (set : Nat → Nat → Instr) (k : Kind) : Prop :=
  (∀ (s : State) (id i : Nat), s.Inv → id < s.params.M → i < s.read (.num id k) →
    (s.read (.counter id k i) < s.read (.debounceCount id k i) →
      ∃ t, exec (set id i) s = .next t ∧ t.read (.flag id k i) = 1 ∧
        Responds .ok 0 (s.read (.counter id k i)) t ∧ Emits [] s t ∧ Frame (fun r => r = .flag id k i) s t) ∧
    (s.read (.debounceCount id k i) ≤ s.read (.counter id k i) → s.latchBit id k i = false →
      ∃ t, exec (set id i) s = .next t ∧ t.read (.flag id k i) = 0 ∧ t.read (.counter id k i) = 0 ∧
        t.read (.opState id) = 1 ∧ t.read (.latch id k) = s.read (.latch id k) + 2 ^ i ∧
        Responds .ok 1 (s.read (.counter id k i)) t ∧ Emits [id] s t ∧
        Frame (fun r => r = .flag id k i ∨ r = .counter id k i ∨ r = .opState id ∨ r = .latch id k) s t) ∧
    (s.read (.debounceCount id k i) ≤ s.read (.counter id k i) → s.latchBit id k i = true →
      ∃ t, exec (set id i) s = .next t ∧ t.read (.flag id k i) = 0 ∧ t.read (.counter id k i) = 0 ∧
        Responds .ok 2 (s.read (.counter id k i)) t ∧ Emits [] s t ∧
        Frame (fun r => r = .flag id k i ∨ r = .counter id k i) s t)) ∧
  ∀ (s : State) (id i : Nat), s.params.M ≤ id ∨ s.read (.num id k) ≤ i →
    ∃ t, exec (set id i) s = .next t ∧ RangeOnly s t

/-- SET_HARD (R86). -/
def Obligations.SetHardDebouncesAndLatches : Prop :=
  (∀ c : Command, (c.w0.extractLsb' 24 8).toNat = 0x05 → (c.w0.extractLsb' 19 1).toNat = 0 →
    decode c = .ok (.setHard (c.w0.extractLsb' 20 4).toNat (c.w0.extractLsb' 8 8).toNat)) ∧
  Sys2Proof.Claims.FollowsSetProcedure .setHard .hard

/-- SET_SOFT (R88, R89): the same procedure on the soft record and latch. -/
def Obligations.SetSoftDebouncesAndLatches : Prop :=
  (∀ c : Command, (c.w0.extractLsb' 24 8).toNat = 0x05 → (c.w0.extractLsb' 19 1).toNat = 1 →
    decode c = .ok (.setSoft (c.w0.extractLsb' 20 4).toNat (c.w0.extractLsb' 8 8).toNat)) ∧
  Sys2Proof.Claims.FollowsSetProcedure .setSoft .soft

/-- ITLK_RESET (R95, R96): both masks are returned and cleared; the state goes from INTERLOCK to OFF only when verified
safe; no event record changes, and no `TurnOff` is emitted. -/
def Obligations.ItlkResetClearsTheLatches : Prop :=
  (∀ c : Command, (c.w0.extractLsb' 24 8).toNat = 0x06 →
    decode c = .ok (.itlkReset (c.w0.extractLsb' 20 4).toNat (c.w1.getLsbD 0))) ∧
  (∀ (s : State) (id : Nat) (safe : Bool), s.Inv → id < s.params.M →
    ∃ t, exec (.itlkReset id safe) s = .next t ∧
      t.read (.latch id .hard) = 0 ∧ t.read (.latch id .soft) = 0 ∧
      t.read (.opState id) = (if safe = true ∧ s.read (.opState id) = 1 then 0 else s.read (.opState id)) ∧
      Responds .ok (s.read (.latch id .hard)) (s.read (.latch id .soft)) t ∧ Emits [] s t ∧
      Frame (fun r => r = .latch id .hard ∨ r = .latch id .soft ∨ r = .opState id) s t) ∧
  ∀ (s : State) (id : Nat) (safe : Bool), s.params.M ≤ id →
    ∃ t, exec (.itlkReset id safe) s = .next t ∧ RangeOnly s t

/-- WR_STATE (R97, R98): any code below 16 is written, whatever is latched; a wider value is rejected, not truncated. -/
def Obligations.WrStateWritesTheState : Prop :=
  (∀ c : Command, (c.w0.extractLsb' 24 8).toNat = 0x07 →
    decode c = .ok (.wrState (c.w0.extractLsb' 20 4).toNat c.w1.toNat)) ∧
  (∀ (s : State) (id value : Nat), s.Inv → id < s.params.M → value < 16 →
    ∃ t, exec (.wrState id value) s = .next t ∧ t.read (.opState id) = value ∧
      Responds .ok (s.read (.opState id)) 0 t ∧ Emits [] s t ∧ Frame (fun r => r = .opState id) s t) ∧
  ∀ (s : State) (id value : Nat), s.params.M ≤ id ∨ 16 ≤ value →
    ∃ t, exec (.wrState id value) s = .next t ∧ RangeOnly s t

/-- TS_CONFIG (R100): the divisor is stored and returned, the counter cleared. -/
def Obligations.TsConfigSetsTheDivisor : Prop :=
  (∀ c : Command, (c.w0.extractLsb' 24 8).toNat = 0x08 →
    decode c = .ok (.tsConfig (c.w0.extractLsb' 8 8).toNat c.w1.toNat c.w2.toNat)) ∧
  (∀ (s : State) (j target master : Nat), s.Inv → j < s.params.S →
    ∃ t, exec (.tsConfig j target master) s = .next t ∧ t.read (.tsN j) = divisor s.params target master ∧
      t.read (.tsCounter j) = 0 ∧ Responds .ok (divisor s.params target master) 0 t ∧ Emits [] s t ∧
      Frame (fun r => r = .tsN j ∨ r = .tsCounter j) s t) ∧
  ∀ (s : State) (j target master : Nat), s.params.S ≤ j →
    ∃ t, exec (.tsConfig j target master) s = .next t ∧ RangeOnly s t

/-- TS_STEP (R102): the counter counts one, and restarts with `fire = 1` when it reaches the divisor. -/
def Obligations.TsStepCountsAndFires : Prop :=
  (∀ c : Command, (c.w0.extractLsb' 24 8).toNat = 0x09 → decode c = .ok (.tsStep (c.w0.extractLsb' 8 8).toNat)) ∧
  (∀ (s : State) (j : Nat), s.Inv → j < s.params.S →
    ∃ t, exec (.tsStep j) s = .next t ∧
      t.read (.tsCounter j) = (if s.read (.tsN j) ≤ s.read (.tsCounter j) + 1 then 0 else s.read (.tsCounter j) + 1) ∧
      Responds .ok (if s.read (.tsN j) ≤ s.read (.tsCounter j) + 1 then 1 else 0) (t.read (.tsCounter j)) t ∧
      Emits [] s t ∧ Frame (fun r => r = .tsCounter j) s t) ∧
  ∀ (s : State) (j : Nat), s.params.S ≤ j → ∃ t, exec (.tsStep j) s = .next t ∧ RangeOnly s t

/-- RD_LATCH (R108). -/
def Obligations.RdLatchReturnsTheRegister : Prop :=
  (∀ c : Command, (c.w0.extractLsb' 24 8).toNat = 0x10 →
    decode c = .ok (.rdLatch (c.w0.extractLsb' 20 4).toNat
      (if (c.w0.extractLsb' 19 1).toNat = 0 then .hard else .soft))) ∧
  (∀ (s : State) (id : Nat) (k : Kind), id < s.params.M →
    ∃ t, exec (.rdLatch id k) s = .next t ∧ Responds .ok (s.read (.latch id k)) 0 t ∧ Emits [] s t ∧
      Frame (fun _ => False) s t) ∧
  (∀ (s : State) (id : Nat) (k : Kind), s.Inv → id < s.params.M → s.read (.latch id k) < 2 ^ s.params.E) ∧
  ∀ (s : State) (id : Nat) (k : Kind), s.params.M ≤ id → ∃ t, exec (.rdLatch id k) s = .next t ∧ RangeOnly s t

/-- RD_MODULE (R109): state in a[3:0], tb_flag in a[8], operating in a[9], num[H] in a[21:16], num[S] in a[29:24], the
frequency in b. -/
def Obligations.RdModuleReturnsTheStateWord : Prop :=
  (∀ c : Command, (c.w0.extractLsb' 24 8).toNat = 0x11 → decode c = .ok (.rdModule (c.w0.extractLsb' 20 4).toNat)) ∧
  (∀ (s : State) (id : Nat), id < s.params.M →
    ∃ t, exec (.rdModule id) s = .next t ∧
      Responds .ok
        (s.read (.opState id) + 2 ^ 8 * s.read (.tbFlag id) + 2 ^ 9 * (if 1 < s.read (.opState id) then 1 else 0) +
          2 ^ 16 * s.read (.num id .hard) + 2 ^ 24 * s.read (.num id .soft))
        (s.read (.freq id)) t ∧
      Emits [] s t ∧ Frame (fun _ => False) s t) ∧
  ∀ (s : State) (id : Nat), s.params.M ≤ id → ∃ t, exec (.rdModule id) s = .next t ∧ RangeOnly s t

/-- RD_EVENT (R110): the counter, and in b the flag, the derived state (0 IDLE, 1 PENDING, 2 ARMED) and the latch bit. -/
def Obligations.RdEventReturnsTheSnapshot : Prop :=
  (∀ c : Command, (c.w0.extractLsb' 24 8).toNat = 0x12 →
    decode c = .ok (.rdEvent (c.w0.extractLsb' 20 4).toNat
      (if (c.w0.extractLsb' 19 1).toNat = 0 then .hard else .soft) (c.w0.extractLsb' 8 8).toNat)) ∧
  (∀ (s : State) (id : Nat) (k : Kind) (i : Nat), id < s.params.M → i < s.params.E →
    ∃ t, exec (.rdEvent id k i) s = .next t ∧
      Responds .ok (s.read (.counter id k i))
        (s.read (.flag id k i) +
          2 ^ 8 * (if s.read (.flag id k i) = 0 then 0
            else if s.read (.counter id k i) < s.read (.debounceCount id k i) then 1 else 2) +
          2 ^ 16 * (s.read (.latch id k) / 2 ^ i % 2)) t ∧
      Emits [] s t ∧ Frame (fun _ => False) s t) ∧
  ∀ (s : State) (id : Nat) (k : Kind) (i : Nat), s.params.M ≤ id ∨ s.params.E ≤ i →
    ∃ t, exec (.rdEvent id k i) s = .next t ∧ RangeOnly s t

/-- RD_EVENT_CFG (R111). -/
def Obligations.RdEventCfgReturnsTheCounts : Prop :=
  (∀ c : Command, (c.w0.extractLsb' 24 8).toNat = 0x13 →
    decode c = .ok (.rdEventCfg (c.w0.extractLsb' 20 4).toNat
      (if (c.w0.extractLsb' 19 1).toNat = 0 then .hard else .soft) (c.w0.extractLsb' 8 8).toNat)) ∧
  (∀ (s : State) (id : Nat) (k : Kind) (i : Nat), id < s.params.M → i < s.params.E →
    ∃ t, exec (.rdEventCfg id k i) s = .next t ∧
      Responds .ok (s.read (.debounceCount id k i)) (s.read (.resetCount id k i)) t ∧
      Emits [] s t ∧ Frame (fun _ => False) s t) ∧
  ∀ (s : State) (id : Nat) (k : Kind) (i : Nat), s.params.M ≤ id ∨ s.params.E ≤ i →
    ∃ t, exec (.rdEventCfg id k i) s = .next t ∧ RangeOnly s t

/-- RD_SLICE (R112). -/
def Obligations.RdSliceReturnsTheSlice : Prop :=
  (∀ c : Command, (c.w0.extractLsb' 24 8).toNat = 0x14 → decode c = .ok (.rdSlice (c.w0.extractLsb' 8 8).toNat)) ∧
  (∀ (s : State) (j : Nat), j < s.params.S →
    ∃ t, exec (.rdSlice j) s = .next t ∧ Responds .ok (s.read (.tsCounter j)) (s.read (.tsN j)) t ∧
      Emits [] s t ∧ Frame (fun _ => False) s t) ∧
  ∀ (s : State) (j : Nat), s.params.S ≤ j → ∃ t, exec (.rdSlice j) s = .next t ∧ RangeOnly s t

/-! ## Rules about the whole machine -/

/-- R59: a command answers RANGE, with no effect, exactly when a range check fails; otherwise OK. -/
def Obligations.RangeExactlyWhenAnIndexIsOut : Prop :=
  ∀ (i : Instr) (s : State),
    if rangeFails s i = true then ∃ t, exec i s = .next t ∧ RangeOnly s t
    else ∃ t a b, exec i s = .next t ∧ Responds .ok a b t

/-- The "written by" column of R35: no command writes a register outside its row. -/
def Obligations.OnlyListedCommandsWriteARegister : Prop :=
  ∀ (i : Instr) (s t : State) (r : Reg), exec i s = .next t → r.writtenBy i = false → t.read r = s.read r

/-- R34, R85: a command on one module neither writes nor reads another module's registers or a slice: two states that
agree on the module it names get the same response and `TurnOff` events and agree on that module afterwards, and every
other register is as before. -/
def Obligations.ModulesAreIndependent : Prop :=
  ∀ (i : Instr) (id : Nat) (s s' t t' : State), i.module = some id → s.Inv → s'.Inv → s.params = s'.params →
    s.out = s'.out → (∀ r : Reg, r.module = some id → s.read r = s'.read r) →
    exec i s = .next t → exec i s' = .next t' →
      t.out = t'.out ∧ (∀ r : Reg, r.module = some id → t.read r = t'.read r) ∧
      ∀ r : Reg, r.module ≠ some id → t.read r = s.read r

/-- R105, R34: a command on one slice reads and writes only that slice. -/
def Obligations.SlicesAreIndependent : Prop :=
  ∀ (i : Instr) (j : Nat) (s s' t t' : State), i.slice = some j → s.Inv → s'.Inv → s.params = s'.params →
    s.out = s'.out → (∀ r : Reg, r.slice = some j → s.read r = s'.read r) →
    exec i s = .next t → exec i s' = .next t' →
      t.out = t'.out ∧ (∀ r : Reg, r.slice = some j → t.read r = t'.read r) ∧
      ∀ r : Reg, r.slice ≠ some j → t.read r = s.read r

/-- R44: which commands change nothing, which are idempotent, that a second EM_TICK with no EM_TB_SIGNAL before it changes
nothing, and that SET and TS_STEP are not idempotent. -/
def Obligations.IdempotencyOfCommands : Prop :=
  (∀ (i : Instr) (s t u : State),
    (i = .nop ∨ (∃ id k, i = .rdLatch id k) ∨ (∃ id, i = .rdModule id) ∨ (∃ id k e, i = .rdEvent id k e) ∨
      (∃ id k e, i = .rdEventCfg id k e) ∨ ∃ j, i = .rdSlice j) →
    exec i s = .next t → exec i t = .next u →
      (∀ r : Reg, t.read r = s.read r) ∧ t.out.turnOff = s.out.turnOff ∧ u.out.response = t.out.response) ∧
  (∀ (i : Instr) (s t u : State), s.Inv → i.wf = true →
    ((∃ id, i = .emTick id) ∨ (∃ id, i = .emTbSignal id) ∨ (∃ id b, i = .itlkReset id b) ∨ (∃ id v, i = .wrState id v) ∨
      (∃ id f nh ns, i = .emInit id f nh ns) ∨ ∃ id k e d r, i = .emCfgEvent id k e d r) →
    exec i s = .next t → exec i t = .next u → ∀ r : Reg, u.read r = t.read r) ∧
  (∀ (id : Nat) (s t u v : State) (cs : List Instr), exec (.emTick id) s = .next t → (∀ c ∈ cs, c ≠ .emTbSignal id) →
    execAll cs t = some u → exec (.emTick id) u = .next v → ∀ r : Reg, v.read r = u.read r) ∧
  (∀ (id : Nat) (k : Kind) (i : Nat) (s t : State), s.latchBit id k i = true → exec (setCommand id k i) s = .next t →
    t.read (.latch id k) = s.read (.latch id k) ∧ t.out.turnOff = s.out.turnOff) ∧
  (∃ (id : Nat) (k : Kind) (i : Nat) (s t u : State), s.Inv ∧ exec (setCommand id k i) s = .next t ∧
    exec (setCommand id k i) t = .next u ∧ (s.event id k i).phase = .armed ∧ (t.event id k i).phase = .idle ∧
    (u.event id k i).phase = .pending) ∧
  ∃ (j : Nat) (s t u : State), s.Inv ∧ exec (.tsStep j) s = .next t ∧ exec (.tsStep j) t = .next u ∧
    u.read (.tsCounter j) ≠ t.read (.tsCounter j)

/-- R124: in a step `TurnOff(id)` is emitted exactly when a latch bit of module `id` goes from 0 to 1; at most one event
a step; the state is INTERLOCK in the same step. -/
def Obligations.TurnOffExactlyOnANewLatch : Prop :=
  ∀ (s t : State), s.Inv → step s = .next t →
    t.out.turnOff.length ≤ 1 ∧
    ∀ id, id < s.params.M →
      ((id ∈ t.out.turnOff ↔ ∃ k i, s.latchBit id k i = false ∧ t.latchBit id k i = true) ∧
        (id ∈ t.out.turnOff → t.read (.opState id) = 1))

/-- R99: after a new latch in module `id` the state is INTERLOCK until ITLK_RESET with `safe = 1` or WR_STATE on that
module; no command but SET, ITLK_RESET and WR_STATE on the module writes the state; and a latched bit stays set until
ITLK_RESET on the module. -/
def Obligations.LatchHoldsUntilReset : Prop :=
  (∀ (id : Nat) (k : Kind) (i : Nat) (s t u : State) (cs : List Instr), s.Inv → id < s.params.M →
    exec (setCommand id k i) s = .next t → s.latchBit id k i = false → t.latchBit id k i = true →
    (∀ c ∈ cs, c.wf = true ∧ c ≠ .itlkReset id true ∧ ∀ v, c ≠ .wrState id v) → execAll cs t = some u →
      u.read (.opState id) = 1) ∧
  (∀ (c : Instr) (id : Nat) (s t : State),
    (∀ i, c ≠ .setHard id i) → (∀ i, c ≠ .setSoft id i) → (∀ b, c ≠ .itlkReset id b) → (∀ v, c ≠ .wrState id v) →
    exec c s = .next t → t.read (.opState id) = s.read (.opState id)) ∧
  ∀ (id : Nat) (k : Kind) (i : Nat) (s u : State) (cs : List Instr), s.latchBit id k i = true →
    (∀ c ∈ cs, ∀ b, c ≠ .itlkReset id b) → execAll cs s = some u → u.latchBit id k i = true

/-- R87: over any sequence of encodable commands without ITLK_RESET on module `id`, the `TurnOff(id)` events are exactly
as many as the latch bits of the module that became set: each bit causes at most one. -/
def Obligations.EachLatchBitTurnsOffOnce : Prop :=
  ∀ (id : Nat) (s u : State) (cs : List Instr), s.Inv → id < s.params.M →
    (∀ c ∈ cs, c.wf = true ∧ ∀ b, c ≠ .itlkReset id b) → execAll cs s = some u →
      u.out.turnOff.count id +
          ((List.range 32).countP (s.latchBit id .hard) + (List.range 32).countP (s.latchBit id .soft)) =
        s.out.turnOff.count id +
          ((List.range 32).countP (u.latchBit id .hard) + (List.range 32).countP (u.latchBit id .soft))

/-- R90: the transitions of one configured event over IDLE, PENDING and ARMED, with its counter. -/
def Obligations.EventFollowsTheTransitionTable : Prop :=
  ∀ (s : State) (id : Nat) (k : Kind) (i : Nat), s.Inv → id < s.params.M → i < s.read (.num id k) →
    (∀ t, exec (setCommand id k i) s = .next t →
      ((s.event id k i).phase = .idle → s.read (.debounceCount id k i) = 0 →
        (t.event id k i).phase = .idle ∧ t.read (.counter id k i) = 0 ∧ t.latchBit id k i = true) ∧
      ((s.event id k i).phase = .idle → 0 < s.read (.debounceCount id k i) →
        (t.event id k i).phase = .pending ∧ t.read (.counter id k i) = 0 ∧ t.read (.latch id k) = s.read (.latch id k)) ∧
      ((s.event id k i).phase = .pending →
        (t.event id k i).phase = .pending ∧ t.read (.counter id k i) = s.read (.counter id k i) ∧
          t.read (.latch id k) = s.read (.latch id k)) ∧
      ((s.event id k i).phase = .armed →
        (t.event id k i).phase = .idle ∧ t.read (.counter id k i) = 0 ∧ t.latchBit id k i = true)) ∧
    (∀ t, exec (.emTick id) s = .next t → s.read (.tbFlag id) = 1 →
      ((s.event id k i).phase = .idle → (t.event id k i).phase = .idle ∧ t.read (.counter id k i) = 0) ∧
      ((s.event id k i).phase = .pending → s.read (.counter id k i) + 1 < s.read (.debounceCount id k i) →
        (t.event id k i).phase = .pending ∧ t.read (.counter id k i) = s.read (.counter id k i) + 1) ∧
      ((s.event id k i).phase = .pending → s.read (.counter id k i) + 1 = s.read (.debounceCount id k i) →
        (t.event id k i).phase = .armed ∧ t.read (.counter id k i) = s.read (.counter id k i) + 1) ∧
      ((s.event id k i).phase = .armed → s.read (.counter id k i) + 1 < s.read (.resetCount id k i) →
        (t.event id k i).phase = .armed ∧ t.read (.counter id k i) = s.read (.counter id k i) + 1) ∧
      ((s.event id k i).phase = .armed → s.read (.resetCount id k i) ≤ s.read (.counter id k i) + 1 →
        (t.event id k i).phase = .idle ∧ t.read (.counter id k i) = 0)) ∧
    (∀ t, exec (.emTick id) s = .next t → s.read (.tbFlag id) = 0 → t.event id k i = s.event id k i) ∧
    (∀ t freq nh ns, exec (.emInit id freq nh ns) s = .next t →
      (t.event id k i).phase = .idle ∧ t.read (.counter id k i) = 0) ∧
    (∀ t d r, exec (.emCfgEvent id k i d r) s = .next t →
      (t.event id k i).phase = .idle ∧ t.read (.counter id k i) = 0) ∧
    ∀ t c, exec c s = .next t → c ≠ setCommand id k i → c ≠ .emTick id → (∀ f nh ns, c ≠ .emInit id f nh ns) →
      (∀ d r, c ≠ .emCfgEvent id k i d r) → t.event id k i = s.event id k i

/-- R91, first half, over any sequence of encodable commands that neither initialises the module nor configures the
event: from a flagged event with counter `c`, if fewer than `rc - c` ticks are consumed, and no SET on the event comes
in the sequence unless fewer than `dc - c` are, then the event stays flagged, its counter has counted exactly the
consumed ticks, and its latch bit is as before unless ITLK_RESET cleared it. -/
def Obligations.EpisodeCounterCountsConsumedTicks : Prop :=
  ∀ (id : Nat) (k : Kind) (i : Nat) (s u : State) (cs : List Instr), s.Inv → id < s.params.M → i < s.read (.num id k) →
    s.read (.flag id k i) = 1 →
    (∀ c ∈ cs, c.wf = true ∧ (∀ f nh ns, c ≠ .emInit id f nh ns) ∧ ∀ d r, c ≠ .emCfgEvent id k i d r) →
    s.read (.counter id k i) + ticksConsumed id cs s < s.read (.resetCount id k i) →
    (setCommand id k i ∈ cs → s.read (.counter id k i) + ticksConsumed id cs s < s.read (.debounceCount id k i)) →
    execAll cs s = some u →
      u.read (.flag id k i) = 1 ∧ u.read (.counter id k i) = s.read (.counter id k i) + ticksConsumed id cs s ∧
      (u.latchBit id k i = true → s.latchBit id k i = true)

/-- R93, the source's first scenario: a flagged event that gets no further SET self-heals at the `rc`-th consumed tick of
its episode, whatever other encodable commands come between, and its latch bit is not set by then. -/
def Obligations.UnrepeatedEventSelfHeals : Prop :=
  ∀ (id : Nat) (k : Kind) (i : Nat) (s u v : State) (cs : List Instr), s.Inv → id < s.params.M →
    i < s.read (.num id k) → s.read (.flag id k i) = 1 →
    (∀ c ∈ cs, c.wf = true ∧ (∀ f nh ns, c ≠ .emInit id f nh ns) ∧ (∀ d r, c ≠ .emCfgEvent id k i d r) ∧
      c ≠ setCommand id k i) →
    s.read (.counter id k i) + ticksConsumed id cs s + 1 = s.read (.resetCount id k i) →
    execAll cs s = some u → u.read (.tbFlag id) = 1 → exec (.emTick id) u = .next v →
      v.read (.flag id k i) = 0 ∧ v.read (.counter id k i) = 0 ∧ (v.latchBit id k i = true → s.latchBit id k i = true)

/-- R92, the source's second scenario: a condition reported on an idle event and again after each consumed tick is
pending for `n < dc` ticks, and the SET after the `dc`-th latches it (or finds it already latched). -/
def Obligations.PersistentConditionLatchesAtTheDebounceCount : Prop :=
  ∀ (id : Nat) (k : Kind) (i n : Nat) (s u : State), s.Inv → id < s.params.M → i < s.read (.num id k) →
    s.read (.flag id k i) = 0 →
    execAll (setCommand id k i :: (List.replicate n [Instr.emTbSignal id, .emTick id, setCommand id k i]).flatten) s = some u →
      (n < s.read (.debounceCount id k i) → Responds .ok 0 n u ∧ u.read (.counter id k i) = n ∧
        u.read (.flag id k i) = 1 ∧ u.latchBit id k i = s.latchBit id k i ∧ u.out.turnOff = s.out.turnOff) ∧
      (n = s.read (.debounceCount id k i) →
        Responds .ok (if s.latchBit id k i then 2 else 1) n u ∧ u.latchBit id k i = true ∧
        u.read (.flag id k i) = 0 ∧ u.read (.counter id k i) = 0 ∧
        u.out.turnOff = s.out.turnOff ++ (if s.latchBit id k i then [] else [id]))

/-- R103: after TS_CONFIG on slice `j` with result `N`, and whatever encodable commands other than TS_CONFIG on `j`
follow, the next TS_STEP on `j`, the `(n + 1)`-th, fires exactly when `N` divides `n + 1`: the period is exactly `N`
and no phase error accumulates. -/
def Obligations.SliceFiresEveryNthStep : Prop :=
  ∀ (j target master : Nat) (s t u v : State) (cs : List Instr), s.Inv → j < s.params.S →
    exec (.tsConfig j target master) s = .next t →
    (∀ c ∈ cs, c.wf = true ∧ ∀ tg m, c ≠ .tsConfig j tg m) → execAll cs t = some u → exec (.tsStep j) u = .next v →
      Responds .ok (if (cs.count (.tsStep j) + 1) % t.read (.tsN j) = 0 then 1 else 0)
        ((cs.count (.tsStep j) + 1) % t.read (.tsN j)) v

/-- R125: the continuous outputs are functions of the registers. -/
def Obligations.ContinuousOutputsFollowTheRegisters : Prop :=
  ∀ (s : State) (id : Nat),
    (s.operating id = true ↔ 1 < s.read (.opState id)) ∧
    (s.latched id = true ↔ s.read (.latch id .hard) ≠ 0 ∨ s.read (.latch id .soft) ≠ 0)
end

