-- ==== Sys2Proof/Laws/Encoding.lean ====
section
/-! SUPPORT. The field layout of a header word (R53): what each field of an assembled header is, that the fields make up
the word, and what the opcode map's masks look at. -/

namespace Sys2Proof

/-- The fields of a header put together from fields. -/
theorem append_fields (op : BitVec 8) (id : BitVec 4) (k : BitVec 1) (r : BitVec 3) (x q : BitVec 8) :
    (op ++ id ++ k ++ r ++ x ++ q : BitVec 32).extractLsb' 24 8 = op ∧
    (op ++ id ++ k ++ r ++ x ++ q : BitVec 32).extractLsb' 20 4 = id ∧
    (op ++ id ++ k ++ r ++ x ++ q : BitVec 32).extractLsb' 19 1 = k ∧
    (op ++ id ++ k ++ r ++ x ++ q : BitVec 32).extractLsb' 8 8 = x := by
  refine ⟨?_, ?_, ?_, ?_⟩ <;> apply BitVec.eq_of_getLsbD_eq <;> intro i hi <;>
    simp only [BitVec.getLsbD_extractLsb', BitVec.getLsbD_append] <;> interval_cases i <;> simp

/-- A header word is its fields (R53). -/
theorem word_eq_fields (v : Word) : v = v.extractLsb' 24 8 ++ v.extractLsb' 20 4 ++ v.extractLsb' 19 1 ++
    v.extractLsb' 16 3 ++ v.extractLsb' 8 8 ++ v.extractLsb' 0 8 := by
  apply BitVec.eq_of_getLsbD_eq
  intro i hi
  simp only [BitVec.getLsbD_append, BitVec.getLsbD_extractLsb']
  interval_cases i <;> simp

@[simp] theorem field_header_op (op id k idx : Nat) : field (header op id k idx) 24 8 = op % 2 ^ 8 := by
  simp [field, header, (append_fields _ _ _ _ _ _).1]

@[simp] theorem field_header_id (op id k idx : Nat) : field (header op id k idx) 20 4 = id % 2 ^ 4 := by
  simp [field, header, (append_fields _ _ _ _ _ _).2.1]

@[simp] theorem field_header_k (op id k idx : Nat) : field (header op id k idx) 19 1 = k % 2 ^ 1 := by
  simp [field, header, (append_fields _ _ _ _ _ _).2.2.1]

@[simp] theorem field_header_idx (op id k idx : Nat) : field (header op id k idx) 8 8 = idx % 2 ^ 8 := by
  simp [field, header, (append_fields _ _ _ _ _ _).2.2.2]

/-- The two counts of EM_INIT's operand B (R55). -/
theorem countsWord_fields (nh ns : Nat) :
    field (countsWord nh ns) 0 8 = nh % 2 ^ 8 ∧ field (countsWord nh ns) 8 8 = ns % 2 ^ 8 := by
  have h (a b : BitVec 8) : ((0#16 ++ a ++ b : BitVec 32).extractLsb' 0 8 = b) ∧
      ((0#16 ++ a ++ b : BitVec 32).extractLsb' 8 8 = a) := by
    constructor <;> apply BitVec.eq_of_getLsbD_eq <;> intro i hi <;>
      simp only [BitVec.getLsbD_extractLsb', BitVec.getLsbD_append] <;> interval_cases i <;> simp
  simp [field, countsWord, h]

/-- A field is below its width. -/
theorem field_lt (v : Word) (lo len : Nat) : field v lo len < 2 ^ len := (v.extractLsb' lo len).isLt

/-- The mask 0xFF000000 looks at OP alone. -/
theorem mask_op (v : Word) (n : BitVec 8) : v &&& (0xFF000000 : Word) = n ++ 0#24 ↔ v.extractLsb' 24 8 = n := by
  constructor
  · intro h
    have := congrArg (fun w : Word => w.extractLsb' 24 8) h
    apply BitVec.eq_of_getLsbD_eq
    intro i hi
    have := congrArg (fun w : BitVec 8 => w.getLsbD i) this
    simp only [BitVec.getLsbD_extractLsb', BitVec.getLsbD_and, BitVec.getLsbD_append] at this ⊢
    interval_cases i <;> simpa using this
  · rintro rfl
    apply BitVec.eq_of_getLsbD_eq
    intro i hi
    simp only [BitVec.getLsbD_extractLsb', BitVec.getLsbD_and, BitVec.getLsbD_append]
    interval_cases i <;> simp

/-- The mask 0xFF080000 looks at OP and K. -/
theorem mask_op_k (v : Word) (n : BitVec 8) (k : BitVec 1) : v &&& (0xFF080000 : Word) = n ++ 0#4 ++ k ++ 0#19 ↔
    v.extractLsb' 24 8 = n ∧ v.extractLsb' 19 1 = k := by
  constructor
  · intro h
    constructor
    · have := congrArg (fun w : Word => w.extractLsb' 24 8) h
      apply BitVec.eq_of_getLsbD_eq
      intro i hi
      have := congrArg (fun w : BitVec 8 => w.getLsbD i) this
      simp only [BitVec.getLsbD_extractLsb', BitVec.getLsbD_and, BitVec.getLsbD_append] at this ⊢
      interval_cases i <;> simpa using this
    · have := congrArg (fun w : Word => w.extractLsb' 19 1) h
      apply BitVec.eq_of_getLsbD_eq
      intro i hi
      have := congrArg (fun w : BitVec 1 => w.getLsbD i) this
      simp only [BitVec.getLsbD_extractLsb', BitVec.getLsbD_and, BitVec.getLsbD_append] at this ⊢
      interval_cases i; simpa using this
  · rintro ⟨rfl, rfl⟩
    apply BitVec.eq_of_getLsbD_eq
    intro i hi
    simp only [BitVec.getLsbD_extractLsb', BitVec.getLsbD_and, BitVec.getLsbD_append]
    interval_cases i <;> simp

end Sys2Proof
end

