-- ==== Sys2Proof/Laws/Operands.lean ====
section
/-! SUPPORT. What the conversion functions can answer (R70 to R73, R101), and what a legal parameter set gives (R13). -/

namespace Sys2Proof.Machine

theorem ticks_mono {f f' us us' : Nat} (hf : f ≤ f') (hu : us ≤ us') : ticks f us ≤ ticks f' us' :=
  Nat.div_le_div_right (Nat.add_le_add_right (Nat.mul_le_mul hf hu) _)

@[simp] theorem ticks_zero (f : Nat) : ticks f 0 = 0 := by simp [ticks]

/-! ## R13(b): the check looks at finitely many frequencies -/

theorem ceilingsApartUpTo_iff (p : Params) (n : Nat) :
    ceilingsApartUpTo p n = true ↔ ∀ f, 1 ≤ f → f ≤ n → ticks f p.maxDebounceUs + 1 ≤ ticks f p.maxResetUs := by
  induction n with
  | zero => simp [ceilingsApartUpTo]; omega
  | succ n ih =>
    simp only [ceilingsApartUpTo, ceilingsApartAt, Bool.and_eq_true, decide_eq_true_eq, ih]
    constructor
    · rintro ⟨h, hn⟩ f h1 h2
      rcases Nat.lt_or_ge f (n + 1) with hf | hf
      · exact h f h1 (by omega)
      · obtain rfl : f = n + 1 := by omega
        exact hn
    · intro h
      exact ⟨fun f h1 h2 => h f h1 (by omega), h _ (by omega) le_rfl⟩

/-- Once the ceilings are 10^6 microsecond-hertz apart, they are a tick apart. -/
theorem ticks_apart_of_gap {f d r : Nat} (h : 1000000 ≤ f * (r - d)) (hdr : d < r) : ticks f d + 1 ≤ ticks f r := by
  have hle : f * d + 1000000 ≤ f * r := by
    obtain ⟨g, rfl⟩ := Nat.exists_eq_add_of_lt hdr
    have : d + g + 1 - d = g + 1 := by omega
    rw [this] at h
    nlinarith
  unfold ticks
  omega

theorem ceilingsApart_iff (p : Params) (hF : 1 ≤ p.fMax) :
    ceilingsApart p = true ↔
      ∀ f, 1 ≤ f → f ≤ p.fMax → ticks f p.maxDebounceUs + 1 ≤ ticks f p.maxResetUs := by
  simp only [ceilingsApart, Bool.and_eq_true, decide_eq_true_eq, ceilingsApartUpTo_iff]
  constructor
  · rintro ⟨hlt, h⟩ f h1 h2
    by_cases hf : f ≤ 1000000 / (p.maxResetUs - p.maxDebounceUs)
    · exact h f h1 (by omega)
    · refine ticks_apart_of_gap ?_ hlt
      have := Nat.lt_mul_of_div_lt (Nat.lt_of_not_le hf) (by omega : 0 < p.maxResetUs - p.maxDebounceUs)
      exact this.le
  · intro h
    refine ⟨?_, fun f h1 h2 => h f h1 (by omega)⟩
    by_contra hge
    have := h 1 le_rfl hF
    have := ticks_mono (le_refl 1) (Nat.le_of_not_lt hge)
    omega

/-- Everything a legal parameter set says (R4 to R6, R13). -/
theorem legal_iff (p : Params) : p.legal = true ↔
    (1 ≤ p.M ∧ p.M ≤ 16 ∧ 1 ≤ p.E ∧ p.E ≤ 32 ∧ 1 ≤ p.S ∧ p.S ≤ 256 ∧ 1 ≤ p.fMax ∧
      ticks p.fMax p.maxResetUs ≤ 2 ^ 32 - 1 ∧
      (∀ f, 1 ≤ f → f ≤ p.fMax → ticks f p.maxDebounceUs + 1 ≤ ticks f p.maxResetUs) ∧
      1 ≤ p.nMax ∧ p.nMax ≤ 2 ^ 32 - 1) := by
  simp only [Params.legal, Bool.and_eq_true, decide_eq_true_eq, and_assoc]
  constructor
  · rintro ⟨a, b, c, d, e, f, g, h, i, j, k⟩
    exact ⟨a, b, c, d, e, f, g, h, (ceilingsApart_iff p g).1 i, j, k⟩
  · rintro ⟨a, b, c, d, e, f, g, h, i, j, k⟩
    exact ⟨a, b, c, d, e, f, g, h, (ceilingsApart_iff p g).2 i, j, k⟩

/-! ## Bounds -/

theorem fEff_bounds {p : Params} (h : p.legal = true) (freq : Nat) : 1 ≤ fEff p freq ∧ fEff p freq ≤ p.fMax := by
  have := (legal_iff p).1 h
  unfold fEff clamp
  omega

theorem fEff_lt {p : Params} {freq : Nat} (hf : freq < 2 ^ 32) : fEff p freq < 2 ^ 32 := by
  unfold fEff clamp
  omega

/-- The counts EM_CFG_EVENT stores are in the bounds of R25(c), (d), (e), and fit their registers. -/
theorem counts_bounds {p : Params} (h : p.legal = true) {f : Nat} (h1 : 1 ≤ f) (h2 : f ≤ p.fMax) (d r : Nat) :
    debounceCountOf p f d ≤ ticks f p.maxDebounceUs ∧ debounceCountOf p f d < resetCountOf p f d r ∧
      resetCountOf p f d r ≤ maxResetCounts p f ∧ maxResetCounts p f < 2 ^ 32 := by
  have hl := (legal_iff p).1 h
  have hd : debounceCountOf p f d ≤ ticks f p.maxDebounceUs := ticks_mono le_rfl (Nat.min_le_right _ _)
  have hr : ticks f (min r p.maxResetUs) ≤ ticks f p.maxResetUs := ticks_mono le_rfl (Nat.min_le_right _ _)
  have hb := hl.2.2.2.2.2.2.2.2.1 f h1 h2
  have hm : ticks f p.maxResetUs ≤ ticks p.fMax p.maxResetUs := ticks_mono h2 le_rfl
  have ha : ticks p.fMax p.maxResetUs < 2 ^ 32 := by
    have := hl.2.2.2.2.2.2.2.1
    omega
  refine ⟨hd, lt_of_lt_of_le (Nat.lt_succ_self _) (Nat.le_max_right _ _), ?_, lt_of_le_of_lt hm ha⟩
  exact Nat.max_le.2 ⟨hr, le_trans (Nat.succ_le_succ hd) hb⟩

theorem one_le_maxResetCounts {p : Params} (h : p.legal = true) {f : Nat} (h1 : 1 ≤ f) (h2 : f ≤ p.fMax) :
    1 ≤ maxResetCounts p f := by
  have hb := ((legal_iff p).1 h).2.2.2.2.2.2.2.2.1 f h1 h2
  unfold maxResetCounts
  omega

theorem divisor_bounds {p : Params} (h : p.legal = true) (t m : Nat) :
    1 ≤ divisor p t m ∧ divisor p t m ≤ p.nMax ∧ divisor p t m < 2 ^ 32 := by
  have hl := (legal_iff p).1 h
  unfold divisor clamp
  split <;> omega

end Sys2Proof.Machine
end

