-- ==== Sys2Proof/Laws/State.lean ====
section
/-! SUPPORT. One lemma per field of State for each update of it, true by `rfl`, so that no later proof unfolds a record
update. -/

namespace Sys2Proof.Machine

/-! ### setMod -/

@[simp] theorem State.setMod_params (s : State) (id : Nat) (m : ModuleRegs) :
    (s.setMod id m).params = s.params := rfl

@[simp] theorem State.setMod_modules (s : State) (id : Nat) (m : ModuleRegs) :
    (s.setMod id m).modules = s.modules.set id m := rfl

@[simp] theorem State.setMod_slices (s : State) (id : Nat) (m : ModuleRegs) :
    (s.setMod id m).slices = s.slices := rfl

@[simp] theorem State.setMod_held (s : State) (id : Nat) (m : ModuleRegs) :
    (s.setMod id m).held = s.held := rfl

@[simp] theorem State.setMod_accepted (s : State) (id : Nat) (m : ModuleRegs) :
    (s.setMod id m).out.accepted = s.out.accepted := rfl

@[simp] theorem State.setMod_response (s : State) (id : Nat) (m : ModuleRegs) :
    (s.setMod id m).out.response = s.out.response := rfl

@[simp] theorem State.setMod_turnOff (s : State) (id : Nat) (m : ModuleRegs) :
    (s.setMod id m).out.turnOff = s.out.turnOff := rfl

@[simp] theorem State.setMod_rstIn (s : State) (id : Nat) (m : ModuleRegs) :
    (s.setMod id m).rstIn = s.rstIn := rfl

@[simp] theorem State.setMod_port0In (s : State) (id : Nat) (m : ModuleRegs) :
    (s.setMod id m).port0In = s.port0In := rfl

@[simp] theorem State.setMod_port1In (s : State) (id : Nat) (m : ModuleRegs) :
    (s.setMod id m).port1In = s.port1In := rfl

/-! ### setEvent -/

@[simp] theorem State.setEvent_params (s : State) (id : Nat) (k : Kind) (i : Nat) (e : Event) :
    (s.setEvent id k i e).params = s.params := rfl

@[simp] theorem State.setEvent_modules (s : State) (id : Nat) (k : Kind) (i : Nat) (e : Event) :
    (s.setEvent id k i e).modules = s.modules.set id ((s.mod id).setEvent k i e) := rfl

@[simp] theorem State.setEvent_slices (s : State) (id : Nat) (k : Kind) (i : Nat) (e : Event) :
    (s.setEvent id k i e).slices = s.slices := rfl

@[simp] theorem State.setEvent_held (s : State) (id : Nat) (k : Kind) (i : Nat) (e : Event) :
    (s.setEvent id k i e).held = s.held := rfl

@[simp] theorem State.setEvent_accepted (s : State) (id : Nat) (k : Kind) (i : Nat) (e : Event) :
    (s.setEvent id k i e).out.accepted = s.out.accepted := rfl

@[simp] theorem State.setEvent_response (s : State) (id : Nat) (k : Kind) (i : Nat) (e : Event) :
    (s.setEvent id k i e).out.response = s.out.response := rfl

@[simp] theorem State.setEvent_turnOff (s : State) (id : Nat) (k : Kind) (i : Nat) (e : Event) :
    (s.setEvent id k i e).out.turnOff = s.out.turnOff := rfl

@[simp] theorem State.setEvent_rstIn (s : State) (id : Nat) (k : Kind) (i : Nat) (e : Event) :
    (s.setEvent id k i e).rstIn = s.rstIn := rfl

@[simp] theorem State.setEvent_port0In (s : State) (id : Nat) (k : Kind) (i : Nat) (e : Event) :
    (s.setEvent id k i e).port0In = s.port0In := rfl

@[simp] theorem State.setEvent_port1In (s : State) (id : Nat) (k : Kind) (i : Nat) (e : Event) :
    (s.setEvent id k i e).port1In = s.port1In := rfl

/-! ### setOpState -/

@[simp] theorem State.setOpState_params (s : State) (id : Nat) (v : BitVec SW) :
    (s.setOpState id v).params = s.params := rfl

@[simp] theorem State.setOpState_modules (s : State) (id : Nat) (v : BitVec SW) :
    (s.setOpState id v).modules = s.modules.set id { s.mod id with opState := v } := rfl

@[simp] theorem State.setOpState_slices (s : State) (id : Nat) (v : BitVec SW) :
    (s.setOpState id v).slices = s.slices := rfl

@[simp] theorem State.setOpState_held (s : State) (id : Nat) (v : BitVec SW) :
    (s.setOpState id v).held = s.held := rfl

@[simp] theorem State.setOpState_accepted (s : State) (id : Nat) (v : BitVec SW) :
    (s.setOpState id v).out.accepted = s.out.accepted := rfl

@[simp] theorem State.setOpState_response (s : State) (id : Nat) (v : BitVec SW) :
    (s.setOpState id v).out.response = s.out.response := rfl

@[simp] theorem State.setOpState_turnOff (s : State) (id : Nat) (v : BitVec SW) :
    (s.setOpState id v).out.turnOff = s.out.turnOff := rfl

@[simp] theorem State.setOpState_rstIn (s : State) (id : Nat) (v : BitVec SW) :
    (s.setOpState id v).rstIn = s.rstIn := rfl

@[simp] theorem State.setOpState_port0In (s : State) (id : Nat) (v : BitVec SW) :
    (s.setOpState id v).port0In = s.port0In := rfl

@[simp] theorem State.setOpState_port1In (s : State) (id : Nat) (v : BitVec SW) :
    (s.setOpState id v).port1In = s.port1In := rfl

/-! ### setSlice -/

@[simp] theorem State.setSlice_params (s : State) (j : Nat) (t : Slice) :
    (s.setSlice j t).params = s.params := rfl

@[simp] theorem State.setSlice_modules (s : State) (j : Nat) (t : Slice) :
    (s.setSlice j t).modules = s.modules := rfl

@[simp] theorem State.setSlice_slices (s : State) (j : Nat) (t : Slice) :
    (s.setSlice j t).slices = s.slices.set j t := rfl

@[simp] theorem State.setSlice_held (s : State) (j : Nat) (t : Slice) :
    (s.setSlice j t).held = s.held := rfl

@[simp] theorem State.setSlice_accepted (s : State) (j : Nat) (t : Slice) :
    (s.setSlice j t).out.accepted = s.out.accepted := rfl

@[simp] theorem State.setSlice_response (s : State) (j : Nat) (t : Slice) :
    (s.setSlice j t).out.response = s.out.response := rfl

@[simp] theorem State.setSlice_turnOff (s : State) (j : Nat) (t : Slice) :
    (s.setSlice j t).out.turnOff = s.out.turnOff := rfl

@[simp] theorem State.setSlice_rstIn (s : State) (j : Nat) (t : Slice) :
    (s.setSlice j t).rstIn = s.rstIn := rfl

@[simp] theorem State.setSlice_port0In (s : State) (j : Nat) (t : Slice) :
    (s.setSlice j t).port0In = s.port0In := rfl

@[simp] theorem State.setSlice_port1In (s : State) (j : Nat) (t : Slice) :
    (s.setSlice j t).port1In = s.port1In := rfl

/-! ### respond -/

@[simp] theorem State.respond_params (s : State) (st : Status) (a b : Word) :
    (s.respond st a b).params = s.params := rfl

@[simp] theorem State.respond_modules (s : State) (st : Status) (a b : Word) :
    (s.respond st a b).modules = s.modules := rfl

@[simp] theorem State.respond_slices (s : State) (st : Status) (a b : Word) :
    (s.respond st a b).slices = s.slices := rfl

@[simp] theorem State.respond_held (s : State) (st : Status) (a b : Word) :
    (s.respond st a b).held = s.held := rfl

@[simp] theorem State.respond_accepted (s : State) (st : Status) (a b : Word) :
    (s.respond st a b).out.accepted = s.out.accepted := rfl

@[simp] theorem State.respond_response (s : State) (st : Status) (a b : Word) :
    (s.respond st a b).out.response = some { status := st, a := a, b := b } := rfl

@[simp] theorem State.respond_turnOff (s : State) (st : Status) (a b : Word) :
    (s.respond st a b).out.turnOff = s.out.turnOff := rfl

@[simp] theorem State.respond_rstIn (s : State) (st : Status) (a b : Word) :
    (s.respond st a b).rstIn = s.rstIn := rfl

@[simp] theorem State.respond_port0In (s : State) (st : Status) (a b : Word) :
    (s.respond st a b).port0In = s.port0In := rfl

@[simp] theorem State.respond_port1In (s : State) (st : Status) (a b : Word) :
    (s.respond st a b).port1In = s.port1In := rfl

/-! ### emitTurnOff -/

@[simp] theorem State.emitTurnOff_params (s : State) (id : Nat) :
    (s.emitTurnOff id).params = s.params := rfl

@[simp] theorem State.emitTurnOff_modules (s : State) (id : Nat) :
    (s.emitTurnOff id).modules = s.modules := rfl

@[simp] theorem State.emitTurnOff_slices (s : State) (id : Nat) :
    (s.emitTurnOff id).slices = s.slices := rfl

@[simp] theorem State.emitTurnOff_held (s : State) (id : Nat) :
    (s.emitTurnOff id).held = s.held := rfl

@[simp] theorem State.emitTurnOff_accepted (s : State) (id : Nat) :
    (s.emitTurnOff id).out.accepted = s.out.accepted := rfl

@[simp] theorem State.emitTurnOff_response (s : State) (id : Nat) :
    (s.emitTurnOff id).out.response = s.out.response := rfl

@[simp] theorem State.emitTurnOff_turnOff (s : State) (id : Nat) :
    (s.emitTurnOff id).out.turnOff = s.out.turnOff ++ [id] := rfl

@[simp] theorem State.emitTurnOff_rstIn (s : State) (id : Nat) :
    (s.emitTurnOff id).rstIn = s.rstIn := rfl

@[simp] theorem State.emitTurnOff_port0In (s : State) (id : Nat) :
    (s.emitTurnOff id).port0In = s.port0In := rfl

@[simp] theorem State.emitTurnOff_port1In (s : State) (id : Nat) :
    (s.emitTurnOff id).port1In = s.port1In := rfl

/-! ### rangeError -/

@[simp] theorem State.rangeError_params (s : State) :
    (s.rangeError).params = s.params := rfl

@[simp] theorem State.rangeError_modules (s : State) :
    (s.rangeError).modules = s.modules := rfl

@[simp] theorem State.rangeError_slices (s : State) :
    (s.rangeError).slices = s.slices := rfl

@[simp] theorem State.rangeError_held (s : State) :
    (s.rangeError).held = s.held := rfl

@[simp] theorem State.rangeError_accepted (s : State) :
    (s.rangeError).out.accepted = s.out.accepted := rfl

@[simp] theorem State.rangeError_response (s : State) :
    (s.rangeError).out.response = some { status := .range, a := 0, b := 0 } := rfl

@[simp] theorem State.rangeError_turnOff (s : State) :
    (s.rangeError).out.turnOff = s.out.turnOff := rfl

@[simp] theorem State.rangeError_rstIn (s : State) :
    (s.rangeError).rstIn = s.rstIn := rfl

@[simp] theorem State.rangeError_port0In (s : State) :
    (s.rangeError).port0In = s.port0In := rfl

@[simp] theorem State.rangeError_port1In (s : State) :
    (s.rangeError).port1In = s.port1In := rfl

/-! ### illegalError -/

@[simp] theorem State.illegalError_params (s : State) :
    (s.illegalError).params = s.params := rfl

@[simp] theorem State.illegalError_modules (s : State) :
    (s.illegalError).modules = s.modules := rfl

@[simp] theorem State.illegalError_slices (s : State) :
    (s.illegalError).slices = s.slices := rfl

@[simp] theorem State.illegalError_held (s : State) :
    (s.illegalError).held = s.held := rfl

@[simp] theorem State.illegalError_accepted (s : State) :
    (s.illegalError).out.accepted = s.out.accepted := rfl

@[simp] theorem State.illegalError_response (s : State) :
    (s.illegalError).out.response = some { status := .illegal, a := 0, b := 0 } := rfl

@[simp] theorem State.illegalError_turnOff (s : State) :
    (s.illegalError).out.turnOff = s.out.turnOff := rfl

@[simp] theorem State.illegalError_rstIn (s : State) :
    (s.illegalError).rstIn = s.rstIn := rfl

@[simp] theorem State.illegalError_port0In (s : State) :
    (s.illegalError).port0In = s.port0In := rfl

@[simp] theorem State.illegalError_port1In (s : State) :
    (s.illegalError).port1In = s.port1In := rfl

/-! ### takeLatch -/

@[simp] theorem State.takeLatch_params (s : State) (id : Nat) (k : Kind) (i : Nat) :
    (s.takeLatch id k i).params = s.params := rfl

@[simp] theorem State.takeLatch_modules (s : State) (id : Nat) (k : Kind) (i : Nat) :
    (s.takeLatch id k i).modules = s.modules.set id { s.mod id with opState := stateInterlock, latch := (s.mod id).latch.set k ((s.mod id).latch.get k ||| (1#32 <<< i)) } := rfl

@[simp] theorem State.takeLatch_slices (s : State) (id : Nat) (k : Kind) (i : Nat) :
    (s.takeLatch id k i).slices = s.slices := rfl

@[simp] theorem State.takeLatch_held (s : State) (id : Nat) (k : Kind) (i : Nat) :
    (s.takeLatch id k i).held = s.held := rfl

@[simp] theorem State.takeLatch_accepted (s : State) (id : Nat) (k : Kind) (i : Nat) :
    (s.takeLatch id k i).out.accepted = s.out.accepted := rfl

@[simp] theorem State.takeLatch_response (s : State) (id : Nat) (k : Kind) (i : Nat) :
    (s.takeLatch id k i).out.response = s.out.response := rfl

@[simp] theorem State.takeLatch_turnOff (s : State) (id : Nat) (k : Kind) (i : Nat) :
    (s.takeLatch id k i).out.turnOff = s.out.turnOff ++ [id] := rfl

@[simp] theorem State.takeLatch_rstIn (s : State) (id : Nat) (k : Kind) (i : Nat) :
    (s.takeLatch id k i).rstIn = s.rstIn := rfl

@[simp] theorem State.takeLatch_port0In (s : State) (id : Nat) (k : Kind) (i : Nat) :
    (s.takeLatch id k i).port0In = s.port0In := rfl

@[simp] theorem State.takeLatch_port1In (s : State) (id : Nat) (k : Kind) (i : Nat) :
    (s.takeLatch id k i).port1In = s.port1In := rfl

/-! ### leaveLatch -/

@[simp] theorem State.leaveLatch_params (s : State) (id : Nat) (safe : Bool) :
    (s.leaveLatch id safe).params = s.params := rfl

@[simp] theorem State.leaveLatch_modules (s : State) (id : Nat) (safe : Bool) :
    (s.leaveLatch id safe).modules = s.modules.set id { s.mod id with latch := { hard := 0, soft := 0 }, opState := if safe && (s.mod id).opState == stateInterlock then stateOff else (s.mod id).opState } := rfl

@[simp] theorem State.leaveLatch_slices (s : State) (id : Nat) (safe : Bool) :
    (s.leaveLatch id safe).slices = s.slices := rfl

@[simp] theorem State.leaveLatch_held (s : State) (id : Nat) (safe : Bool) :
    (s.leaveLatch id safe).held = s.held := rfl

@[simp] theorem State.leaveLatch_accepted (s : State) (id : Nat) (safe : Bool) :
    (s.leaveLatch id safe).out.accepted = s.out.accepted := rfl

@[simp] theorem State.leaveLatch_response (s : State) (id : Nat) (safe : Bool) :
    (s.leaveLatch id safe).out.response = s.out.response := rfl

@[simp] theorem State.leaveLatch_turnOff (s : State) (id : Nat) (safe : Bool) :
    (s.leaveLatch id safe).out.turnOff = s.out.turnOff := rfl

@[simp] theorem State.leaveLatch_rstIn (s : State) (id : Nat) (safe : Bool) :
    (s.leaveLatch id safe).rstIn = s.rstIn := rfl

@[simp] theorem State.leaveLatch_port0In (s : State) (id : Nat) (safe : Bool) :
    (s.leaveLatch id safe).port0In = s.port0In := rfl

@[simp] theorem State.leaveLatch_port1In (s : State) (id : Nat) (safe : Bool) :
    (s.leaveLatch id safe).port1In = s.port1In := rfl

/-! ### The start of a step -/

@[simp] theorem State.beginStep_params (s : State) : s.beginStep.params = s.params := rfl

@[simp] theorem State.beginStep_modules (s : State) : s.beginStep.modules = s.modules := rfl

@[simp] theorem State.beginStep_slices (s : State) : s.beginStep.slices = s.slices := rfl

@[simp] theorem State.beginStep_held (s : State) : s.beginStep.held = s.heldNext := rfl

@[simp] theorem State.beginStep_accepted (s : State) : s.beginStep.out.accepted = s.chosen := rfl

@[simp] theorem State.beginStep_response (s : State) : s.beginStep.out.response = none := rfl

@[simp] theorem State.beginStep_turnOff (s : State) : s.beginStep.out.turnOff = [] := rfl

@[simp] theorem State.beginStep_rstIn (s : State) : s.beginStep.rstIn = s.rstIn.tail := rfl

@[simp] theorem State.beginStep_port0In (s : State) : s.beginStep.port0In = s.port0In.tail := rfl

@[simp] theorem State.beginStep_port1In (s : State) :
    s.beginStep.port1In = if s.held.isSome then s.port1In else s.port1In.tail := rfl

@[simp] theorem State.beginStep_mod (s : State) (id : Nat) : s.beginStep.mod id = s.mod id := rfl

@[simp] theorem State.beginStep_slice (s : State) (j : Nat) : s.beginStep.slice j = s.slice j := rfl

/-! ### A step under `rst` -/

@[simp] theorem State.resetStep_params (s : State) : s.resetStep.params = s.params := rfl

@[simp] theorem State.resetStep_modules (s : State) :
    s.resetStep.modules = List.replicate s.params.M (ModuleRegs.reset s.params) := rfl

@[simp] theorem State.resetStep_slices (s : State) :
    s.resetStep.slices = List.replicate s.params.S Slice.reset := rfl

@[simp] theorem State.resetStep_held (s : State) : s.resetStep.held = none := rfl

@[simp] theorem State.resetStep_out (s : State) : s.resetStep.out = StepOutput.quiet := rfl

end Sys2Proof.Machine
end

