-- ==== Sys2Proof/Laws/Ops.lean ====
section
/-! SUPPORT. What the register operations read after they write, and which registers they leave alone. -/

namespace Sys2Proof.Machine

/-! ## Hard and soft -/

@[simp] theorem ByKind.get_set_same {α : Type} (x : ByKind α) (k : Kind) (v : α) : (x.set k v).get k = v := by
  cases k <;> rfl

theorem ByKind.get_set_ne {α : Type} (x : ByKind α) {k k' : Kind} (v : α) (h : k' ≠ k) :
    (x.set k v).get k' = x.get k' := by
  cases k <;> cases k' <;> first | rfl | exact absurd rfl h

theorem ByKind.get_set {α : Type} (x : ByKind α) (k k' : Kind) (v : α) :
    (x.set k v).get k' = if k' = k then v else x.get k' := by
  cases k <;> cases k' <;> rfl

/-! ## Modules and slices -/

theorem State.mod_setMod_same {s : State} {id : Nat} (h : id < s.modules.length) (m : ModuleRegs) :
    (s.setMod id m).mod id = m := by
  simp [State.mod, List.getD, h]

theorem State.mod_setMod_ne (s : State) {id id' : Nat} (h : id' ≠ id) (m : ModuleRegs) :
    (s.setMod id m).mod id' = s.mod id' := by
  simp [State.mod, List.getD, List.getElem?_set_ne (Ne.symm h)]

theorem State.slice_setSlice_same {s : State} {j : Nat} (h : j < s.slices.length) (t : Slice) :
    (s.setSlice j t).slice j = t := by
  simp [State.slice, List.getD, h]

theorem State.slice_setSlice_ne (s : State) {j j' : Nat} (h : j' ≠ j) (t : Slice) :
    (s.setSlice j t).slice j' = s.slice j' := by
  simp [State.slice, List.getD, List.getElem?_set_ne (Ne.symm h)]

@[simp] theorem State.slice_setMod (s : State) (id : Nat) (m : ModuleRegs) (j : Nat) :
    (s.setMod id m).slice j = s.slice j := rfl

@[simp] theorem State.mod_setSlice (s : State) (j : Nat) (t : Slice) (id : Nat) :
    (s.setSlice j t).mod id = s.mod id := rfl

@[simp] theorem State.mod_respond (s : State) (st : Status) (a b : Word) (id : Nat) :
    (s.respond st a b).mod id = s.mod id := rfl

@[simp] theorem State.slice_respond (s : State) (st : Status) (a b : Word) (j : Nat) :
    (s.respond st a b).slice j = s.slice j := rfl

@[simp] theorem State.mod_emitTurnOff (s : State) (id' id : Nat) : (s.emitTurnOff id').mod id = s.mod id := rfl

@[simp] theorem State.slice_emitTurnOff (s : State) (id' j : Nat) : (s.emitTurnOff id').slice j = s.slice j := rfl

/-- A module read by index is one of the modules of the state. -/
theorem State.mod_mem {s : State} {id : Nat} (h : id < s.modules.length) : s.mod id ∈ s.modules := by
  simp [State.mod, List.getD, h]

theorem State.slice_mem {s : State} {j : Nat} (h : j < s.slices.length) : s.slice j ∈ s.slices := by
  simp [State.slice, List.getD, h]

/-! ## Events -/

theorem ModuleRegs.event_setEvent_same {m : ModuleRegs} {k : Kind} {i : Nat} (h : i < (m.ev.get k).length)
    (e : Event) : (m.setEvent k i e).event k i = e := by
  simp [ModuleRegs.event, ModuleRegs.setEvent, List.getD, h]

theorem ModuleRegs.event_setEvent_ne (m : ModuleRegs) {k k' : Kind} {i i' : Nat} (h : ¬ (k' = k ∧ i' = i))
    (e : Event) : (m.setEvent k i e).event k' i' = m.event k' i' := by
  simp only [ModuleRegs.event, ModuleRegs.setEvent, ByKind.get_set]
  split
  · rename_i hk
    subst hk
    have : i ≠ i' := fun hi => h ⟨rfl, hi.symm⟩
    simp [List.getD, List.getElem?_set_ne this]
  · rfl

@[simp] theorem ModuleRegs.setEvent_freq (m : ModuleRegs) (k : Kind) (i : Nat) (e : Event) :
    (m.setEvent k i e).freq = m.freq := rfl

@[simp] theorem ModuleRegs.setEvent_num (m : ModuleRegs) (k : Kind) (i : Nat) (e : Event) :
    (m.setEvent k i e).num = m.num := rfl

@[simp] theorem ModuleRegs.setEvent_tbFlag (m : ModuleRegs) (k : Kind) (i : Nat) (e : Event) :
    (m.setEvent k i e).tbFlag = m.tbFlag := rfl

@[simp] theorem ModuleRegs.setEvent_latch (m : ModuleRegs) (k : Kind) (i : Nat) (e : Event) :
    (m.setEvent k i e).latch = m.latch := rfl

@[simp] theorem ModuleRegs.setEvent_opState (m : ModuleRegs) (k : Kind) (i : Nat) (e : Event) :
    (m.setEvent k i e).opState = m.opState := rfl

theorem event_of_mod (s : State) (id : Nat) (k : Kind) (i : Nat) : s.event id k i = (s.mod id).event k i := rfl

/-! ## Registers by name -/

/-- Two states whose module `id` is the same read the same in every register of that module. -/
theorem read_congr_mod {s t : State} {id : Nat} (h : t.mod id = s.mod id) {r : Reg} (hr : r.module = some id) :
    t.read r = s.read r := by
  cases r <;> simp_all [Reg.module, State.read, State.num, event_of_mod, State.latch, State.opState]

/-- Two states whose slice `j` is the same read the same in both registers of that slice. -/
theorem read_congr_slice {s t : State} {j : Nat} (h : t.slice j = s.slice j) {r : Reg} (hr : r.slice = some j) :
    t.read r = s.read r := by
  cases r <;> simp_all [Reg.slice, State.read]

/-- Every register belongs to a module or to a slice, and not to both. -/
theorem Reg.module_or_slice (r : Reg) :
    (∃ id, r.module = some id ∧ r.slice = none) ∨ ∃ j, r.slice = some j ∧ r.module = none := by
  cases r <;> simp [Reg.module, Reg.slice]

/-- Two states with the same registers read the same. -/
theorem read_congr {s t : State} (hm : ∀ id, t.mod id = s.mod id) (hs : ∀ j, t.slice j = s.slice j) (r : Reg) :
    t.read r = s.read r := by
  rcases r.module_or_slice with ⟨id, h, _⟩ | ⟨j, h, _⟩
  · exact read_congr_mod (hm id) h
  · exact read_congr_slice (hs j) h

@[simp] theorem read_respond (s : State) (st : Status) (a b : Word) (r : Reg) :
    (s.respond st a b).read r = s.read r := read_congr (fun _ => rfl) (fun _ => rfl) r

@[simp] theorem read_emitTurnOff (s : State) (id : Nat) (r : Reg) : (s.emitTurnOff id).read r = s.read r :=
  read_congr (fun _ => rfl) (fun _ => rfl) r

@[simp] theorem read_rangeError (s : State) (r : Reg) : s.rangeError.read r = s.read r := read_respond ..

@[simp] theorem read_illegalError (s : State) (r : Reg) : s.illegalError.read r = s.read r := read_respond ..

@[simp] theorem read_beginStep (s : State) (r : Reg) : s.beginStep.read r = s.read r :=
  read_congr (fun _ => rfl) (fun _ => rfl) r

/-- Writing module `id` leaves every register outside it alone. -/
theorem read_setMod_ne (s : State) (id : Nat) (m : ModuleRegs) {r : Reg} (h : r.module ≠ some id) :
    (s.setMod id m).read r = s.read r := by
  rcases r.module_or_slice with ⟨id', h', _⟩ | ⟨j, h', _⟩
  · refine read_congr_mod (State.mod_setMod_ne s ?_ m) h'
    rintro rfl
    exact h h'
  · exact read_congr_slice (State.slice_setMod s id m j) h'

/-- Writing slice `j` leaves every register outside it alone. -/
theorem read_setSlice_ne (s : State) (j : Nat) (t : Slice) {r : Reg} (h : r.slice ≠ some j) :
    (s.setSlice j t).read r = s.read r := by
  rcases r.module_or_slice with ⟨id, h', _⟩ | ⟨j', h', _⟩
  · exact read_congr_mod (State.mod_setSlice s j t id) h'
  · refine read_congr_slice (State.slice_setSlice_ne s ?_ t) h'
    rintro rfl
    exact h h'

/-- Writing one event record leaves every register but its four fields alone. -/
theorem read_setEvent_ne (s : State) (id : Nat) (k : Kind) (i : Nat) (e : Event) {r : Reg}
    (h1 : r ≠ .flag id k i) (h2 : r ≠ .counter id k i) (h3 : r ≠ .debounceCount id k i) (h4 : r ≠ .resetCount id k i) :
    (s.setEvent id k i e).read r = s.read r := by
  by_cases hm : r.module = some id
  · by_cases hl : id < s.modules.length
    · have hmod : (s.setEvent id k i e).mod id = (s.mod id).setEvent k i e := State.mod_setMod_same hl _
      have hev : ∀ k' i', ¬ (k' = k ∧ i' = i) →
          ((s.mod id).setEvent k i e).event k' i' = (s.mod id).event k' i' :=
        fun k' i' h => ModuleRegs.event_setEvent_ne _ h e
      cases r with
      | flag id' k' i' =>
        obtain rfl : id' = id := by simpa [Reg.module] using hm
        have : ¬ (k' = k ∧ i' = i) := by rintro ⟨rfl, rfl⟩; exact h1 rfl
        simp only [State.read, event_of_mod, hmod, hev k' i' this]
      | counter id' k' i' =>
        obtain rfl : id' = id := by simpa [Reg.module] using hm
        have : ¬ (k' = k ∧ i' = i) := by rintro ⟨rfl, rfl⟩; exact h2 rfl
        simp only [State.read, event_of_mod, hmod, hev k' i' this]
      | debounceCount id' k' i' =>
        obtain rfl : id' = id := by simpa [Reg.module] using hm
        have : ¬ (k' = k ∧ i' = i) := by rintro ⟨rfl, rfl⟩; exact h3 rfl
        simp only [State.read, event_of_mod, hmod, hev k' i' this]
      | resetCount id' k' i' =>
        obtain rfl : id' = id := by simpa [Reg.module] using hm
        have : ¬ (k' = k ∧ i' = i) := by rintro ⟨rfl, rfl⟩; exact h4 rfl
        simp only [State.read, event_of_mod, hmod, hev k' i' this]
      | freq id' | num id' k' | tbFlag id' | latch id' k' | opState id' =>
        obtain rfl : id' = id := by simpa [Reg.module] using hm
        simp [State.read, State.num, State.latch, State.opState, hmod]
      | tsN j | tsCounter j => simp [Reg.module] at hm
    · have : (s.setEvent id k i e).modules = s.modules := by
        simp [List.set_eq_of_length_le (Nat.le_of_not_lt hl)]
      exact read_congr (s := s) (t := s.setEvent id k i e) (fun id' => by rw [State.mod, this]; rfl) (fun _ => rfl) r
  · exact read_setMod_ne s id _ hm

end Sys2Proof.Machine
end

