-- ==== Sys2Proof/Laws/Invariant.lean ====
section
/-! SUPPORT. The pieces of the invariant: what each operation on an event record, a bank, a module or a slice keeps. -/

namespace Sys2Proof.Machine

/-! ## Event records -/

/-- The default record is in order at every legal frequency (R75, R76). -/
theorem Event.reset_ok {p : Params} (h : p.legal = true) {f : Nat} (h1 : 1 ≤ f) (h2 : f ≤ p.fMax) :
    Event.reset.ok p f := by
  have := one_le_maxResetCounts h h1 h2
  simp [Event.reset, Event.ok]
  omega

theorem Event.cleared_ok {p : Params} {f : Nat} {e : Event} (h : e.ok p f) : e.cleared.ok p f := by
  simp only [Event.ok, Event.cleared] at *
  refine ⟨by simp, ?_, h.2.2.1, h.2.2.2.1, h.2.2.2.2⟩
  simp
  omega

theorem Event.flagged_ok {p : Params} {f : Nat} {e : Event} (h : e.ok p f) : ({ e with flag := true } : Event).ok p f :=
  ⟨fun hf => absurd hf (by simp), h.2⟩

/-- What a consumed tick does to a record, case by case (R82). -/
theorem Event.tick_cases (e : Event) :
    (e.flag = false ∧ e.tick = e) ∨
    (e.flag = true ∧ e.resetCount.toNat ≤ e.counter.toNat + 1 ∧ e.tick = e.cleared) ∨
    (e.flag = true ∧ e.counter.toNat + 1 < e.resetCount.toNat ∧
      e.tick = { e with counter := BitVec.ofNat CW (e.counter.toNat + 1) }) := by
  unfold Event.tick Event.heals
  by_cases hf : e.flag = true
  · by_cases hr : e.resetCount.toNat ≤ e.counter.toNat + 1
    · exact .inr (.inl ⟨hf, hr, by simp [hf, hr]⟩)
    · exact .inr (.inr ⟨hf, by omega, by simp [hf, hr]⟩)
  · exact .inl ⟨by simpa using hf, by simp [hf]⟩

/-- The incremented counter does not wrap: it stays below the reset count (R82). -/
theorem Event.counter_succ {e : Event} (h : e.counter.toNat + 1 < e.resetCount.toNat) :
    (BitVec.ofNat CW (e.counter.toNat + 1)).toNat = e.counter.toNat + 1 := by
  have : e.resetCount.toNat < 2 ^ 32 := e.resetCount.isLt
  rw [BitVec.toNat_ofNat]
  exact Nat.mod_eq_of_lt (by omega)

theorem Event.tick_ok {p : Params} {f : Nat} {e : Event} (h : e.ok p f) : e.tick.ok p f := by
  rcases e.tick_cases with ⟨_, he⟩ | ⟨_, _, he⟩ | ⟨hf, hc, he⟩
  · rwa [he]
  · rw [he]
    exact Event.cleared_ok h
  · rw [he]
    refine ⟨fun hn => absurd hn (by simp [hf]), ?_, h.2.2⟩
    simp only [Event.counter_succ hc]
    exact hc

/-! ## Banks -/

theorem bankOk_default {p : Params} (h : p.legal = true) {f : Nat} (h1 : 1 ≤ f) (h2 : f ≤ p.fMax) {n : Nat}
    (hn : n ≤ p.E) {l : BitVec 32} (hl : l.toNat < 2 ^ p.E) : bankOk p f n (defaultBank p) l := by
  refine ⟨hn, by simp [defaultBank], hl, ?_, ?_⟩
  · intro e he
    rw [List.eq_of_mem_replicate he]
    exact Event.reset_ok h h1 h2
  · intro e he
    rw [List.eq_of_mem_replicate (List.mem_of_mem_drop he)]
    rfl

theorem bankOk_set {p : Params} {f n : Nat} {bank : List Event} {l : BitVec 32} (h : bankOk p f n bank l) {e : Event}
    (he : e.ok p f) {i : Nat} (hi : n ≤ i → e.flag = false) : bankOk p f n (bank.set i e) l := by
  obtain ⟨hn, hlen, hl, hok, hidle⟩ := h
  refine ⟨hn, by simpa using hlen, hl, ?_, ?_⟩
  · intro e' he'
    rcases List.mem_or_eq_of_mem_set he' with h' | rfl
    · exact hok e' h'
    · exact he
  · intro e' he'
    rw [List.drop_set] at he'
    split at he'
    · exact hidle e' he'
    · rcases List.mem_or_eq_of_mem_set he' with h' | rfl
      · exact hidle e' h'
      · exact hi (by omega)

theorem length_tickBank (n : Nat) (bank : List Event) : (tickBank n bank).length = bank.length := by
  simp [tickBank]
  omega

/-- One event of a ticked bank: visited if its index is below `n`. -/
theorem getD_tickBank {n : Nat} {bank : List Event} (i : Nat) :
    (tickBank n bank).getD i Event.reset =
      if i < n then (bank.getD i Event.reset).tick else bank.getD i Event.reset := by
  have hr : Event.reset.tick = Event.reset := rfl
  simp only [tickBank, List.getD, List.getElem?_append, List.length_map, List.length_take, List.getElem?_map,
    List.getElem?_take, List.getElem?_drop]
  by_cases hi : i < n
  · by_cases hb : i < bank.length
    · simp [hi, hb]
    · have : bank.length ≤ i := by omega
      have h4 : bank[n + (i - min n bank.length)]? = none := List.getElem?_eq_none (by omega)
      simp [hi, hr, List.getElem?_eq_none this, h4]
  · by_cases hb : i < bank.length
    · have h1 : ¬ i < min n bank.length := by omega
      have h2 : n + (i - min n bank.length) = i := by omega
      simp [hi, h1, h2]
    · have h1 : ¬ i < min n bank.length := by omega
      have h3 : bank[i]? = none := List.getElem?_eq_none (by omega)
      have h4 : bank[n + (i - min n bank.length)]? = none := List.getElem?_eq_none (by omega)
      simp [hi, h1, h3, h4]

theorem bankOk_tick {p : Params} {f n : Nat} {bank : List Event} {l : BitVec 32} (h : bankOk p f n bank l) :
    bankOk p f n (tickBank n bank) l := by
  obtain ⟨hn, hlen, hl, hok, hidle⟩ := h
  refine ⟨hn, by rw [length_tickBank, hlen], hl, ?_, ?_⟩
  · intro e he
    rcases List.mem_append.1 he with h' | h'
    · obtain ⟨e', he', rfl⟩ := List.mem_map.1 h'
      exact Event.tick_ok (hok e' (List.mem_of_mem_take he'))
    · exact hok e (List.mem_of_mem_drop h')
  · intro e he
    have : (tickBank n bank).drop n = bank.drop n := List.drop_left' (by simp; omega)
    rw [this] at he
    exact hidle e he

/-- Setting the latch bit of an event below `E` keeps the bits from `E` up 0. -/
theorem latch_or_lt {l : BitVec 32} {E i : Nat} (hl : l.toNat < 2 ^ E) (hi : i < E) (hE : E ≤ 32) :
    (l ||| (1#32 <<< i)).toNat < 2 ^ E := by
  have h1 : (1#32 <<< i).toNat = 2 ^ i := by
    rw [BitVec.toNat_shiftLeft, Nat.shiftLeft_eq]
    have : 2 ^ i < 2 ^ 32 := Nat.pow_lt_pow_right (by omega) (by omega)
    simpa using Nat.mod_eq_of_lt this
  rw [BitVec.toNat_or, h1]
  exact Nat.or_lt_two_pow hl (Nat.pow_lt_pow_right (by omega) hi)

/-! ## Modules -/

/-- Both kinds of a module at once. -/
theorem ModuleRegs.ok_iff (p : Params) (m : ModuleRegs) : m.ok p ↔
    1 ≤ m.freq.toNat ∧ m.freq.toNat ≤ p.fMax ∧
      ∀ k, bankOk p m.freq.toNat (m.num.get k).toNat (m.ev.get k) (m.latch.get k) := by
  constructor
  · rintro ⟨h1, h2, hh, hs⟩
    exact ⟨h1, h2, fun k => by cases k <;> assumption⟩
  · rintro ⟨h1, h2, h⟩
    exact ⟨h1, h2, h .hard, h .soft⟩

theorem ModuleRegs.setEvent_ok {p : Params} {m : ModuleRegs} (h : m.ok p) {k : Kind} {i : Nat} {e : Event}
    (he : e.ok p m.freq.toNat) (hi : (m.num.get k).toNat ≤ i → e.flag = false) : (m.setEvent k i e).ok p := by
  rw [ModuleRegs.ok_iff] at *
  refine ⟨h.1, h.2.1, fun k' => ?_⟩
  simp only [ModuleRegs.setEvent, ByKind.get_set]
  split
  · rename_i hk
    subst hk
    exact bankOk_set (h.2.2 _) he hi
  · exact h.2.2 k'

/-- An event of an in-order module is in order. -/
theorem ModuleRegs.event_ok {p : Params} {m : ModuleRegs} (hp : p.legal = true) (h : m.ok p) (k : Kind) (i : Nat) :
    (m.event k i).ok p m.freq.toNat := by
  rw [ModuleRegs.ok_iff] at h
  by_cases hi : i < (m.ev.get k).length
  · refine (h.2.2 k).2.2.2.1 _ ?_
    simp [ModuleRegs.event, List.getD, hi]
  · have : m.event k i = Event.reset := by
      simp [ModuleRegs.event, List.getD, List.getElem?_eq_none (Nat.le_of_not_lt hi)]
    rw [this]
    exact Event.reset_ok hp h.1 h.2.1

/-- An event beyond the configured count is idle (R82). -/
theorem ModuleRegs.event_idle {p : Params} {m : ModuleRegs} (h : m.ok p) {k : Kind} {i : Nat}
    (hi : (m.num.get k).toNat ≤ i) : (m.event k i).flag = false := by
  rw [ModuleRegs.ok_iff] at h
  by_cases hl : i < (m.ev.get k).length
  · refine (h.2.2 k).2.2.2.2 _ ?_
    have : m.event k i = (m.ev.get k)[i] := by simp [ModuleRegs.event, List.getD, hl]
    rw [this]
    have hx : ((m.ev.get k).drop (m.num.get k).toNat)[i - (m.num.get k).toNat]'(by simp; omega) = (m.ev.get k)[i] := by
      rw [List.getElem_drop]
      congr 1
      omega
    rw [← hx]
    exact List.getElem_mem _
  · simp [ModuleRegs.event, List.getD, List.getElem?_eq_none (Nat.le_of_not_lt hl), Event.reset]

/-! ## States -/

theorem State.Inv.mod_ok {s : State} (h : s.Inv) {id : Nat} (hid : id < s.params.M) : (s.mod id).ok s.params :=
  h.2.2.2.1 _ (State.mod_mem (by rw [h.2.1]; exact hid))

theorem State.Inv.slice_ok {s : State} (h : s.Inv) {j : Nat} (hj : j < s.params.S) : (s.slice j).ok s.params :=
  h.2.2.2.2 _ (State.slice_mem (by rw [h.2.2.1]; exact hj))

theorem State.Inv.setMod {s : State} (h : s.Inv) (id : Nat) {m : ModuleRegs} (hm : m.ok s.params) :
    (s.setMod id m).Inv := by
  refine ⟨h.1, by simpa using h.2.1, h.2.2.1, fun m' hm' => ?_, h.2.2.2.2⟩
  rcases List.mem_or_eq_of_mem_set hm' with h' | rfl
  · exact h.2.2.2.1 m' h'
  · exact hm

theorem State.Inv.setSlice {s : State} (h : s.Inv) (j : Nat) {t : Slice} (ht : t.ok s.params) :
    (s.setSlice j t).Inv := by
  refine ⟨h.1, h.2.1, by simpa using h.2.2.1, h.2.2.2.1, fun t' ht' => ?_⟩
  rcases List.mem_or_eq_of_mem_set ht' with h' | rfl
  · exact h.2.2.2.2 t' h'
  · exact ht

/-- The outputs, the held command and the inputs are no part of the invariant. -/
theorem State.Inv.of_registers {s t : State} (h : s.Inv) (hp : t.params = s.params) (hm : t.modules = s.modules)
    (hs : t.slices = s.slices) : t.Inv := by
  simp only [State.Inv, hp, hm, hs]
  exact h

theorem State.Inv.respond {s : State} (h : s.Inv) (st : Status) (a b : Word) : (s.respond st a b).Inv :=
  h.of_registers rfl rfl rfl

theorem State.Inv.emitTurnOff {s : State} (h : s.Inv) (id : Nat) : (s.emitTurnOff id).Inv :=
  h.of_registers rfl rfl rfl

/-- What the set procedure answers, case by case (R86). -/
theorem State.setProcedure_cases (s : State) (id : Nat) (k : Kind) (i : Nat) :
    ((s.params.M ≤ id ∨ s.num id k ≤ i) ∧ s.setProcedure id k i = s.rangeError) ∨
    (id < s.params.M ∧ i < s.num id k ∧
      (((s.event id k i).thresholdMet = false ∧
          s.setProcedure id k i =
            (s.setEvent id k i { s.event id k i with flag := true }).respond .ok 0 (s.event id k i).counter) ∨
        ((s.event id k i).thresholdMet = true ∧ s.latchBit id k i = true ∧
          s.setProcedure id k i =
            (s.setEvent id k i (s.event id k i).cleared).respond .ok 2 (s.event id k i).counter) ∨
        ((s.event id k i).thresholdMet = true ∧ s.latchBit id k i = false ∧
          s.setProcedure id k i =
            ((s.takeLatch id k i).setEvent id k i (s.event id k i).cleared).respond .ok 1
              (s.event id k i).counter))) := by
  unfold State.setProcedure
  by_cases h1 : id < s.params.M
  · by_cases h2 : i < s.num id k
    · refine .inr ⟨h1, h2, ?_⟩
      cases ht : (s.event id k i).thresholdMet <;> cases hl : s.latchBit id k i <;> simp [h1, h2, ht]
    · exact .inl ⟨.inr (by omega), by simp [h1, h2]⟩
  · exact .inl ⟨.inl (by omega), by simp [h1]⟩

end Sys2Proof.Machine
end

