-- ==== Sys2Proof/Laws/Exec.lean ====
section
/-! SUPPORT. What the shared operations of the meanings do, said once: a command's response without effect, the set
procedure on its event record and latch register (R86), a consumed tick on one event (R82), and what no command
touches. -/

namespace Sys2Proof.Machine

/-! ## Arithmetic -/

theorem toNat_ofNat_of_lt {n w : Nat} (h : n < 2 ^ w) : (BitVec.ofNat w n).toNat = n := by
  rw [BitVec.toNat_ofNat]
  exact Nat.mod_eq_of_lt h

/-- Setting latch bit `i` sets that bit and no other (R28). -/
theorem getLsbD_or_one_shl (l : BitVec 32) (i j : Nat) (hi : i < 32) :
    (l ||| (1#32 <<< i)).getLsbD j = (l.getLsbD j || decide (j = i)) := by
  simp only [BitVec.getLsbD_or, BitVec.getLsbD_shiftLeft, BitVec.getLsbD_one]
  by_cases h : j = i
  · subst h
    simp [hi]
  · by_cases h2 : j < i <;> simp [h, h2]
    omega

/-- A concatenation as a number, high part first. -/
theorem toNat_append_add {w v : Nat} (a : BitVec w) (b : BitVec v) : (a ++ b).toNat = a.toNat * 2 ^ v + b.toNat := by
  rw [BitVec.toNat_append, ← Nat.shiftLeft_add_eq_or_of_lt b.isLt, Nat.shiftLeft_eq]

/-! ## Sizes in states that meet the invariant -/

theorem State.Inv.mod_lt {s : State} (h : s.Inv) {id : Nat} (hid : id < s.params.M) : id < s.modules.length := by
  rw [h.2.1]
  exact hid

theorem State.Inv.slice_lt {s : State} (h : s.Inv) {j : Nat} (hj : j < s.params.S) : j < s.slices.length := by
  rw [h.2.2.1]
  exact hj

theorem State.Inv.bank_length {s : State} (h : s.Inv) {id : Nat} (hid : id < s.params.M) (k : Kind) :
    ((s.mod id).ev.get k).length = s.params.E := by
  have := h.mod_ok hid
  rw [ModuleRegs.ok_iff] at this
  exact (this.2.2 k).2.1

theorem State.Inv.num_le {s : State} (h : s.Inv) {id : Nat} (hid : id < s.params.M) (k : Kind) :
    s.num id k ≤ s.params.E := by
  have := h.mod_ok hid
  rw [ModuleRegs.ok_iff] at this
  exact (this.2.2 k).1

theorem State.Inv.event_ok {s : State} (h : s.Inv) {id : Nat} (hid : id < s.params.M) (k : Kind) (i : Nat) :
    (s.event id k i).ok s.params (s.mod id).freq.toNat := ModuleRegs.event_ok h.1 (h.mod_ok hid) k i

/-- Every event of the default bank is the default record, in range or not (R75). -/
theorem defaultBank_getD (p : Params) (i : Nat) : (defaultBank p).getD i Event.reset = Event.reset := by
  simp only [defaultBank, List.getD, List.getElem?_replicate]
  split <;> rfl

/-! ## Reads after a write -/

@[simp] theorem event_respond (s : State) (st : Status) (a b : Word) (id : Nat) (k : Kind) (i : Nat) :
    (s.respond st a b).event id k i = s.event id k i := rfl

/-- Writing a module that is not there changes nothing. -/
theorem read_setMod_absent (s : State) (id : Nat) (m : ModuleRegs) (r : Reg) (hl : ¬ id < s.modules.length) :
    (s.setMod id m).read r = s.read r := by
  have : (s.setMod id m).modules = s.modules := by simp [List.set_eq_of_length_le (Nat.le_of_not_lt hl)]
  exact read_congr (s := s) (t := s.setMod id m) (fun id' => by rw [State.mod, this]; rfl) (fun _ => rfl) r

/-- A register reads as before a module write if it does so in every state whose module `id` is the one written. -/
theorem read_setMod_of (s : State) (id : Nat) (m : ModuleRegs) (r : Reg)
    (h : ∀ s' : State, r.module = some id → s'.mod id = m → s'.read r = s.read r) :
    (s.setMod id m).read r = s.read r := by
  by_cases hm : r.module = some id
  · by_cases hl : id < s.modules.length
    · exact h _ hm (State.mod_setMod_same hl m)
    · exact read_setMod_absent _ _ _ _ hl
  · exact read_setMod_ne s id m hm

/-- A register reads as before a slice write if it does so in every state whose slice `j` is the one written. -/
theorem read_setSlice_of (s : State) (j : Nat) (t : Slice) (r : Reg)
    (h : ∀ s' : State, r.slice = some j → s'.slice j = t → s'.read r = s.read r) :
    (s.setSlice j t).read r = s.read r := by
  by_cases hm : r.slice = some j
  · by_cases hl : j < s.slices.length
    · exact h _ hm (State.slice_setSlice_same hl t)
    · have : (s.setSlice j t).slices = s.slices := by simp [List.set_eq_of_length_le (Nat.le_of_not_lt hl)]
      exact read_congr (s := s) (t := s.setSlice j t) (fun _ => rfl) (fun j' => by rw [State.slice, this]; rfl) r
  · exact read_setSlice_ne s j t hm

/-- The written event record reads back. -/
theorem event_setEvent_same {s : State} {id : Nat} {k : Kind} {i : Nat} (hl : id < s.modules.length)
    (hi : i < ((s.mod id).ev.get k).length) (e : Event) : (s.setEvent id k i e).event id k i = e := by
  rw [event_of_mod, State.setEvent, State.mod_setMod_same hl, ModuleRegs.event_setEvent_same hi]

/-- Module `id` after a new latch (R129). -/
theorem mod_takeLatch {s : State} {id : Nat} (hl : id < s.modules.length) (k : Kind) (i : Nat) :
    (s.takeLatch id k i).mod id =
      { s.mod id with
        opState := stateInterlock
        latch := (s.mod id).latch.set k ((s.mod id).latch.get k ||| (1#32 <<< i)) } :=
  State.mod_setMod_same (s := s.emitTurnOff id) hl _

/-- Module `id` after the way back from a latch (R95, R130). -/
theorem mod_leaveLatch {s : State} {id : Nat} (hl : id < s.modules.length) (safe : Bool) :
    (s.leaveLatch id safe).mod id =
      { s.mod id with
        latch := { hard := 0, soft := 0 }
        opState := if safe && (s.mod id).opState == stateInterlock then stateOff else (s.mod id).opState } :=
  State.mod_setMod_same hl _

/-! ## Responses without effect -/

/-- `respond(RANGE, 0, 0)` does nothing else (R121). -/
theorem rangeOnly_rangeError (s : State) : RangeOnly s s.rangeError :=
  ⟨rfl, by simp [Emits], rfl, rfl, rfl, rfl, rfl, rfl, fun r _ => by simp⟩

/-- A command that only responds changes nothing else (R113). -/
theorem respond_ok_only (s : State) (a b : Word) :
    Responds .ok a.toNat b.toNat (s.respond .ok a b) ∧ Emits [] s (s.respond .ok a b) ∧
      Frame (fun _ => False) s (s.respond .ok a b) :=
  ⟨by simp [Responds], by simp [Emits], rfl, rfl, rfl, rfl, rfl, rfl, fun r _ => by simp⟩

/-! ## Every command -/

/-- Every command answers a next state; it writes neither the parameters nor the inputs, the held command or the note of
the taken command, and keeps the number of modules and slices. -/
theorem exec_next (i : Instr) (s : State) :
    ∃ t, exec i s = .next t ∧ t.params = s.params ∧ t.held = s.held ∧ t.rstIn = s.rstIn ∧ t.port0In = s.port0In ∧
      t.port1In = s.port1In ∧ t.out.accepted = s.out.accepted ∧ t.modules.length = s.modules.length ∧
      t.slices.length = s.slices.length := by
  cases i <;> simp only [exec, execNop, execEmInit, execEmCfgEvent, execEmTbSignal, execEmTick, execSetHard,
    execSetSoft, execItlkReset, execWrState, execTsConfig, execTsStep, execRdLatch, execRdModule, execRdEvent,
    execRdEventCfg, execRdSlice]
  case setHard id e =>
    refine ⟨_, rfl, ?_⟩
    rcases s.setProcedure_cases id .hard e with ⟨_, h⟩ | ⟨_, _, ⟨_, h⟩ | ⟨_, _, h⟩ | ⟨_, _, h⟩⟩ <;> rw [h] <;> simp
  case setSoft id e =>
    refine ⟨_, rfl, ?_⟩
    rcases s.setProcedure_cases id .soft e with ⟨_, h⟩ | ⟨_, _, ⟨_, h⟩ | ⟨_, _, h⟩ | ⟨_, _, h⟩⟩ <;> rw [h] <;> simp
  all_goals (repeat' split) <;> refine ⟨_, rfl, ?_⟩ <;> simp

/-- SET by kind runs the set procedure (R86, R88). -/
theorem exec_setCommand (id : Nat) (k : Kind) (i : Nat) (s : State) :
    exec (setCommand id k i) s = .next (s.setProcedure id k i) := by cases k <;> rfl

/-- What the set procedure leaves in the event record, the latch register, the state and the outputs (R86). -/
theorem setProcedure_effect {s : State} (h : s.Inv) {id : Nat} {k : Kind} {i : Nat} (hid : id < s.params.M)
    (hi : i < s.num id k) :
    ((s.event id k i).thresholdMet = false ∧
      (s.setProcedure id k i).event id k i = { s.event id k i with flag := true } ∧
      (s.setProcedure id k i).latch id k = s.latch id k ∧
      (s.setProcedure id k i).out = { s.out with response := some ⟨.ok, 0, (s.event id k i).counter⟩ }) ∨
    ((s.event id k i).thresholdMet = true ∧ s.latchBit id k i = true ∧
      (s.setProcedure id k i).event id k i = (s.event id k i).cleared ∧
      (s.setProcedure id k i).latch id k = s.latch id k ∧
      (s.setProcedure id k i).out = { s.out with response := some ⟨.ok, 2, (s.event id k i).counter⟩ }) ∨
    ((s.event id k i).thresholdMet = true ∧ s.latchBit id k i = false ∧
      (s.setProcedure id k i).event id k i = (s.event id k i).cleared ∧
      (s.setProcedure id k i).latch id k = s.latch id k ||| (1#32 <<< i) ∧
      (s.setProcedure id k i).out =
        { s.out with
          response := some ⟨.ok, 1, (s.event id k i).counter⟩
          turnOff := s.out.turnOff ++ [id] } ∧
      (s.setProcedure id k i).opState id = stateInterlock) := by
  have hl := h.mod_lt hid
  have hi' : i < ((s.mod id).ev.get k).length := by
    rw [h.bank_length hid]
    exact lt_of_lt_of_le hi (h.num_le hid k)
  have hla : ∀ e, (s.setEvent id k i e).latch id k = s.latch id k := by
    intro e
    simp only [State.latch, State.setEvent, State.mod_setMod_same hl]
    rfl
  rcases s.setProcedure_cases id k i with ⟨h, _⟩ | ⟨_, _, ⟨a, e⟩ | ⟨a, b, e⟩ | ⟨a, b, e⟩⟩
  · omega
  · rw [e]
    exact .inl ⟨a, event_setEvent_same hl hi' _, hla _, rfl⟩
  · rw [e]
    exact .inr (.inl ⟨a, b, event_setEvent_same hl hi' _, hla _, rfl⟩)
  · rw [e]
    have hl2 : id < (s.takeLatch id k i).modules.length := by simpa using hl
    have hev2 : ((s.takeLatch id k i).mod id).ev = (s.mod id).ev := by rw [mod_takeLatch hl]
    refine .inr (.inr ⟨a, b, event_setEvent_same hl2 (by rw [hev2]; exact hi') _, ?_, rfl, ?_⟩)
    · simp only [State.latch, State.mod_respond, State.setEvent, State.mod_setMod_same hl2,
        ModuleRegs.setEvent_latch, mod_takeLatch hl, ByKind.get_set_same]
    · simp only [State.opState, State.mod_respond, State.setEvent, State.mod_setMod_same hl2,
        ModuleRegs.setEvent_opState, mod_takeLatch hl]

/-- What EM_TICK leaves in one event record: a tick if the period was unconsumed and the event is configured (R82). -/
theorem emTick_event {s : State} (h : s.Inv) {id : Nat} (k : Kind) (i : Nat) (hid : id < s.params.M) {t : State}
    (he : exec (.emTick id) s = .next t) :
    t.event id k i =
      if (s.mod id).tbFlag ∧ i < s.num id k then (s.event id k i).tick else s.event id k i := by
  have hl := h.mod_lt hid
  simp only [exec, execEmTick, hid, if_true] at he
  split at he
  · rename_i hf
    cases he
    have hx := fun n b => getD_tickBank (n := n) (bank := b) i
    simp only [event_of_mod, State.mod_respond, State.mod_setMod_same hl, hf, true_and]
    cases k <;> simp only [ModuleRegs.event, ByKind.get, hx, State.num] <;> rfl
  · rename_i hf
    cases he
    simp [hf]

end Sys2Proof.Machine
end

