-- ==== Sys2Proof/Laws/PerInstr.lean ====
section
/-! SUPPORT. Statements made per instruction. `HeaderSelectsRow`: the header word that the encoder writes is selected by
the command's own row of the opcode map (R57), whatever its operands. -/

namespace Sys2Proof.Laws.HeaderSelectsRow

/-- Every row of the opcode map with the command's mnemonic selects the command's encoded header. -/
def Statement (i : Instr) : Prop := ∀ r ∈ opcodeMap, r.mnemonic = i.mnemonic → r.selects (encode i).w0 = true

/-- A header is selected by a row whose mask is OP alone. -/
theorem selects_op (op : BitVec 8) (id k idx : Nat) (pattern : Word) (hp : pattern = op ++ 0#24) :
    (header op.toNat id k idx &&& (0xFF000000 : Word) == pattern) = true := by
  rw [beq_iff_eq, hp, mask_op]
  apply BitVec.eq_of_toNat_eq
  exact (field_header_op op.toNat id k idx).trans (Nat.mod_eq_of_lt op.isLt)

/-- A header is selected by a row whose mask is OP and K. -/
theorem selects_op_k (op : BitVec 8) (k : BitVec 1) (id idx : Nat) (pattern : Word)
    (hp : pattern = op ++ 0#4 ++ k ++ 0#19) :
    (header op.toNat id k.toNat idx &&& (0xFF080000 : Word) == pattern) = true := by
  rw [beq_iff_eq, hp, mask_op_k]
  constructor <;> apply BitVec.eq_of_toNat_eq
  · exact (field_header_op op.toNat id k.toNat idx).trans (Nat.mod_eq_of_lt op.isLt)
  · exact (field_header_k op.toNat id k.toNat idx).trans (Nat.mod_eq_of_lt k.isLt)

/-- The rows of one mnemonic are the one at its place. -/
theorem of_row (i : Instr) (m : String) (n : Nat) (hi : i.mnemonic = m) (hn : n < opcodeMap.length)
    (hu : ∀ r ∈ opcodeMap, r.mnemonic = m → r = opcodeMap[n])
    (hs : opcodeMap[n].selects (encode i).w0 = true) : Statement i := by
  intro r hr hm
  rw [hu r hr (hm.trans hi)]
  exact hs

theorem nop : Statement (.nop) :=
  of_row _ "NOP" 0 rfl (by decide) (by decide) (selects_op 0x00 0 0 0 _ rfl)

theorem emInit (id : Nat) (f : Nat) (nh : Nat) (ns : Nat) : Statement (.emInit id f nh ns) :=
  of_row _ "EM_INIT" 1 rfl (by decide) (by decide) (selects_op 0x01 id 0 0 _ rfl)

theorem emCfgEvent (id : Nat) (k : Kind) (i : Nat) (d : Nat) (r : Nat) : Statement (.emCfgEvent id k i d r) :=
  of_row _ "EM_CFG_EVENT" 2 rfl (by decide) (by decide) (selects_op 0x02 id k.bit i _ rfl)

theorem emTbSignal (id : Nat) : Statement (.emTbSignal id) :=
  of_row _ "EM_TB_SIGNAL" 3 rfl (by decide) (by decide) (selects_op 0x03 id 0 0 _ rfl)

theorem emTick (id : Nat) : Statement (.emTick id) :=
  of_row _ "EM_TICK" 4 rfl (by decide) (by decide) (selects_op 0x04 id 0 0 _ rfl)

theorem setHard (id : Nat) (i : Nat) : Statement (.setHard id i) :=
  of_row _ "SET_HARD" 5 rfl (by decide) (by decide) (selects_op_k 0x05 0 id i _ rfl)

theorem setSoft (id : Nat) (i : Nat) : Statement (.setSoft id i) :=
  of_row _ "SET_SOFT" 6 rfl (by decide) (by decide) (selects_op_k 0x05 1 id i _ rfl)

theorem itlkReset (id : Nat) (safe : Bool) : Statement (.itlkReset id safe) :=
  of_row _ "ITLK_RESET" 7 rfl (by decide) (by decide) (selects_op 0x06 id 0 0 _ rfl)

theorem wrState (id : Nat) (v : Nat) : Statement (.wrState id v) :=
  of_row _ "WR_STATE" 8 rfl (by decide) (by decide) (selects_op 0x07 id 0 0 _ rfl)

theorem tsConfig (j : Nat) (t : Nat) (m : Nat) : Statement (.tsConfig j t m) :=
  of_row _ "TS_CONFIG" 9 rfl (by decide) (by decide) (selects_op 0x08 0 0 j _ rfl)

theorem tsStep (j : Nat) : Statement (.tsStep j) :=
  of_row _ "TS_STEP" 10 rfl (by decide) (by decide) (selects_op 0x09 0 0 j _ rfl)

theorem rdLatch (id : Nat) (k : Kind) : Statement (.rdLatch id k) :=
  of_row _ "RD_LATCH" 11 rfl (by decide) (by decide) (selects_op 0x10 id k.bit 0 _ rfl)

theorem rdModule (id : Nat) : Statement (.rdModule id) :=
  of_row _ "RD_MODULE" 12 rfl (by decide) (by decide) (selects_op 0x11 id 0 0 _ rfl)

theorem rdEvent (id : Nat) (k : Kind) (i : Nat) : Statement (.rdEvent id k i) :=
  of_row _ "RD_EVENT" 13 rfl (by decide) (by decide) (selects_op 0x12 id k.bit i _ rfl)

theorem rdEventCfg (id : Nat) (k : Kind) (i : Nat) : Statement (.rdEventCfg id k i) :=
  of_row _ "RD_EVENT_CFG" 14 rfl (by decide) (by decide) (selects_op 0x13 id k.bit i _ rfl)

theorem rdSlice (j : Nat) : Statement (.rdSlice j) :=
  of_row _ "RD_SLICE" 15 rfl (by decide) (by decide) (selects_op 0x14 0 0 j _ rfl)

end Sys2Proof.Laws.HeaderSelectsRow
end

