-- ==== Sys2Proof/Tests/Slice0.lean ====
section
/-! SUPPORT. The model's own tests. Expected words and results are the spec's own: 30_encoding.md R57 and R65, the vectors
of 95_test_vectors.md (sections W7 and 2.1 to 2.8, program P4), and the examples of the rules named in each comment.
After them, for every obligation that has hypotheses, a `witness_` theorem: a concrete state and operands that meet
them, one clause for each clause of the obligation, at boundary values. -/

namespace Sys2Proof.Tests

set_option Elab.async false

open Sys2Proof Sys2Proof.Machine

/-! ## Helpers -/

/-- Two modules, two events of a kind, two slices; the other parameters as the spec's defaults. -/
def tiny : Params := { Params.default with M := 2, E := 2, S := 2 }

/-- An event record from numbers. -/
def ev (flag : Bool) (counter dc rc : Nat) : Event :=
  { flag := flag, counter := BitVec.ofNat 32 counter, debounceCount := BitVec.ofNat 32 dc,
    resetCount := BitVec.ofNat 32 rc }

/-- A state of `tiny`: module 0 runs at 1000 Hz with one hard and one soft event `h` and `g`, the given latch registers
and state; slice 0 is `(3, 2)`; all else is at reset. -/
def at0 (tb : Bool) (h g : Event) (latchH latchS st : Nat) : State :=
  { State.resetWith tiny with
    modules :=
      [ { freq := 1000, num := { hard := 1, soft := 1 }, tbFlag := tb,
          ev := { hard := [h, Event.reset], soft := [g, Event.reset] },
          latch := { hard := BitVec.ofNat 32 latchH, soft := BitVec.ofNat 32 latchS }, opState := BitVec.ofNat 4 st },
        ModuleRegs.reset tiny ]
    slices := [{ n := 3, counter := 2 }, Slice.reset] }

/-- The state a command answers, if it answers one. -/
def after (i : Instr) (s : State) : Option State :=
  match exec i s with
  | .next t => some t
  | .fault _ => none
  | .refused _ => none

/-- The state a step answers, if it answers one. -/
def stepped (s : State) : Option State :=
  match step s with
  | .next t => some t
  | .fault _ => none
  | .refused _ => none

/-- Is the response of a state `(st, a, b)`, with exactly these `TurnOff` events, and do these registers hold these
values? -/
def shows (t : State) (st : Status) (a b : Nat) (off : List Nat) (rs : List (Reg × Nat)) : Bool :=
  decide (t.out.response = some { status := st, a := BitVec.ofNat 32 a, b := BitVec.ofNat 32 b }) &&
    decide (t.out.turnOff = off) && rs.all fun r => decide (t.read r.1 = r.2)

/-- Does the command answer a next state that shows this? -/
def gives (i : Instr) (s : State) (st : Status) (a b : Nat) (off : List Nat) (rs : List (Reg × Nat)) : Bool :=
  match after i s with
  | some t => shows t st a b off rs
  | none => false

/-- Does the step answer a next state that shows this? -/
def stepGives (s : State) (st : Status) (a b : Nat) (off : List Nat) (rs : List (Reg × Nat)) : Bool :=
  match stepped s with
  | some t => shows t st a b off rs
  | none => false

/-- The state after a command (the state itself where there is none). -/
def post (i : Instr) (s : State) : State := (after i s).getD s

/-- The state after a step (the state itself where there is none). -/
def postStep (s : State) : State := (stepped s).getD s

/-- The state after a sequence of commands. -/
def postAll (cs : List Instr) (s : State) : State := (execAll cs s).getD s

theorem exec_of_after {i : Instr} {s t : State} (h : after i s = some t) : exec i s = .next t := by
  unfold after at h
  split at h <;> simp_all

theorem step_of_stepped {s t : State} (h : stepped s = some t) : step s = .next t := by
  unfold stepped at h
  split at h <;> simp_all

/-- Module 0 idle everywhere; H0 has counts (3, 5). -/
def idle : State := at0 false (ev false 0 3 5) (ev false 0 3 5) 0 0 0

/-- H0 pending with counter 1, S0 one tick before its reset count; the period is unconsumed; state SLOWREF. -/
def pending : State := at0 true (ev true 1 3 5) (ev true 4 3 5) 0 0 3

/-- H0 armed with counter 3 and its bit clear; S0 armed with its bit set; state SLOWREF. -/
def armed : State := at0 false (ev true 3 3 5) (ev true 4 3 5) 0 1 3

/-- H0 armed with its bit set, S0 pending; state INTERLOCK. -/
def latchedH : State := at0 true (ev true 3 3 5) (ev true 2 3 5) 1 0 1

/-- A whole command on port 0. -/
def onPort0 (s : State) (c : Command) : State := { s with port0In := [.command c] }

/-- A whole command on port 1. -/
def onPort1 (s : State) (c : Command) : State := { s with port1In := [.command c] }

/-! ## WellFormed: each check refuses an ill-formed term -/

/-- A module index needs 4 bits (R53). -/
theorem test_wf_id : (Instr.emTick 15).wf = true ∧ (Instr.emTick 16).wf = false ∧ (Instr.rdModule 16).wf = false := by
  decide +kernel

/-- An event or slice index needs 8 bits (R53). -/
theorem test_wf_idx : (Instr.setHard 0 255).wf = true ∧ (Instr.setHard 0 256).wf = false ∧
    (Instr.tsStep 256).wf = false ∧ (Instr.rdEvent 0 .soft 256).wf = false := by decide +kernel

/-- An event count of EM_INIT needs 8 bits (R65). -/
theorem test_wf_count : (Instr.emInit 0 1000 255 255).wf = true ∧ (Instr.emInit 0 1000 256 0).wf = false ∧
    (Instr.emInit 0 1000 0 256).wf = false := by decide +kernel

/-- An operand needs 32 bits (R54). -/
theorem test_wf_word : (Instr.wrState 0 0xFFFFFFFF).wf = true ∧ (Instr.wrState 0 0x100000000).wf = false ∧
    (Instr.emCfgEvent 0 .hard 0 0 0x100000000).wf = false ∧ (Instr.tsConfig 0 0x100000000 0).wf = false := by decide +kernel

/-! ## Decoding: words written out from R53, R55, R57 -/

/-- NOP, with every ignored field zero and nonzero (2.8). -/
theorem test_decode_nop : decode ⟨0x00000000, 0, 0⟩ = .ok .nop ∧ decode ⟨0x00F0FF00, 5, 6⟩ = .ok .nop := by decide +kernel

/-- R65's words; 2.2's with B[31:16] set. -/
theorem test_decode_emInit : decode ⟨0x01000000, 0x000003E8, 0x00000203⟩ = .ok (.emInit 0 1000 3 2) ∧
    decode ⟨0x01100000, 0x00000000, 0xFFFF40FF⟩ = .ok (.emInit 1 0 255 64) := by decide +kernel

theorem test_decode_emCfgEvent :
    decode ⟨0x02180400, 0x00002710, 0x00004E20⟩ = .ok (.emCfgEvent 1 .soft 4 10000 20000) ∧
    decode ⟨0x02002000, 1, 1⟩ = .ok (.emCfgEvent 0 .hard 32 1 1) := by decide +kernel

theorem test_decode_emTbSignal_emTick : decode ⟨0x03000000, 0, 0⟩ = .ok (.emTbSignal 0) ∧
    decode ⟨0x04F00000, 0, 0⟩ = .ok (.emTick 15) := by decide +kernel

/-- `K` chooses between SET_HARD and SET_SOFT; reserved bits do not (2.5). -/
theorem test_decode_set : decode ⟨0x05280500, 0, 0⟩ = .ok (.setSoft 2 5) ∧
    decode ⟨0x05200100, 0, 0⟩ = .ok (.setHard 2 1) ∧ decode ⟨0x050700FF, 0, 0⟩ = .ok (.setHard 0 0) := by decide +kernel

/-- `safe` is A[0] alone (R55). -/
theorem test_decode_itlkReset : decode ⟨0x06000000, 1, 0⟩ = .ok (.itlkReset 0 true) ∧
    decode ⟨0x06200000, 0xFFFFFFFE, 0⟩ = .ok (.itlkReset 2 false) := by decide +kernel

theorem test_decode_wrState : decode ⟨0x07000000, 0x00000010, 0⟩ = .ok (.wrState 0 16) := by decide +kernel

/-- The slice index is IDX; ID is ignored (2.7). -/
theorem test_decode_slices : decode ⟨0x08000300, 0x000003E8, 0x00004E20⟩ = .ok (.tsConfig 3 1000 20000) ∧
    decode ⟨0x08100100, 0x000003E8, 0x00004E20⟩ = .ok (.tsConfig 1 1000 20000) ∧
    decode ⟨0x09000000, 0, 0⟩ = .ok (.tsStep 0) ∧ decode ⟨0x14000700, 0, 0⟩ = .ok (.rdSlice 7) := by decide +kernel

theorem test_decode_reads : decode ⟨0x10080000, 0, 0⟩ = .ok (.rdLatch 0 .soft) ∧
    decode ⟨0x11000000, 0, 0⟩ = .ok (.rdModule 0) ∧ decode ⟨0x12002000, 0, 0⟩ = .ok (.rdEvent 0 .hard 32) ∧
    decode ⟨0x13081F00, 0, 0⟩ = .ok (.rdEventCfg 0 .soft 31) := by decide +kernel

/-- The reserved opcodes of 2.8. -/
theorem test_decode_reserved : decode ⟨0x0A000000, 0, 0⟩ = .error (.reservedOpcode 0x0A) ∧
    decode ⟨0x15000000, 0, 0⟩ = .error (.reservedOpcode 0x15) ∧
    decode ⟨0xFF123456, 0, 0⟩ = .error (.reservedOpcode 0xFF) ∧
    decode ⟨0x0FF00000, 0, 0⟩ = .error (.reservedOpcode 0x0F) := by decide +kernel

/-- The encoder writes the words of W7. -/
theorem test_encode : encode (.emInit 0 1000 3 2) = ⟨0x01000000, 0x000003E8, 0x00000203⟩ ∧
    encode (.emCfgEvent 1 .soft 4 10000 20000) = ⟨0x02180400, 0x00002710, 0x00004E20⟩ ∧
    encode (.tsConfig 3 1000 20000) = ⟨0x08000300, 0x000003E8, 0x00004E20⟩ ∧
    encode (.setSoft 2 5) = ⟨0x05280500, 0, 0⟩ := by decide +kernel

/-- On a byte-serial link the least significant byte of W0 comes first (R41); what follows a command is not touched. -/
theorem test_decode_bytes :
    decodeBytes [0x00, 0x03, 0x00, 0x08, 0xE8, 0x03, 0x00, 0x00, 0x20, 0x4E, 0x00, 0x00, 0x77] =
      .ok (.tsConfig 3 1000 20000, [0x77]) ∧
    decodeBytes [0x00, 0x03, 0x00, 0x08] = .error (.incomplete 4) := by decide +kernel

/-- A response on the link: status 1 in Q0, then Q1, then Q2, each least significant byte first (R41, R66). -/
theorem test_response_bytes : Response.bytes { status := .range, a := 0, b := 0x101 } =
    [0x01, 0, 0, 0, 0, 0, 0, 0, 0x01, 0x01, 0, 0] := by decide +kernel

/-- The table's numbering: W0, then W1, then W2 upwards. -/
theorem test_decode_table : decodeTableWord 32 0x05280500 = some (.setSoft 2 5) ∧
    decodeTableWord 96 0x00004E20000003E808000300 = some (.tsConfig 3 1000 20000) := by decide +kernel

/-! ## Assembler (R63, R64) -/

theorem test_assemble_line :
    assembleLine "@1 EM_CFG_EVENT 1, S, 4, 10000, 0x4E20  ; counts" =
      some [⟨some .background, .emCfgEvent 1 .soft 4 10000 20000⟩] ∧
    assembleLine "PERIOD 1" = some [⟨none, .emTbSignal 1⟩, ⟨none, .emTick 1⟩] ∧
    assembleLine "WR_STATE 0, RMP_WFM" = some [⟨none, .wrState 0 5⟩] ∧ assembleLine "; nothing" = some [] ∧
    assembleLine "EM_INIT 0, 1000, 256, 0" = none := by decide +kernel

theorem test_assemble_repeat :
    assemble ["REPEAT 2 " ++ openBrace, "EM_TICK 1", closeBrace, "SET 0, H, 3"] =
      some [⟨none, .emTick 1⟩, ⟨none, .emTick 1⟩, ⟨none, .setHard 0 3⟩] := by decide +kernel

/-- R63's state name as the value, and the model's choice of log 16: a state name as the id is its code. -/
theorem test_assemble_state_names : assembleLine "WR_STATE 0, CYCLE" = some [⟨none, .wrState 0 7⟩] ∧
    assembleLine "WR_STATE OFF, 3" = some [⟨none, .wrState 0 3⟩] ∧ assembleLine "EM_TICK OFF" = none := by decide +kernel

/-- The model's choices of log 16: a prefix before a REPEAT header is refused, one on a line inside the block is kept. -/
theorem test_assemble_repeat_prefix :
    assemble ["@1 REPEAT 2 " ++ openBrace, "EM_TICK 1", closeBrace] = none ∧
    assemble ["REPEAT 2 " ++ openBrace, "@1 EM_TICK 1", closeBrace] =
      some [⟨some .background, .emTick 1⟩, ⟨some .background, .emTick 1⟩] ∧
    assemble ["REPEAT 1 " ++ openBrace, "EM_TICK 1", "@1 " ++ closeBrace] = some [⟨none, .emTick 1⟩] := by
  decide +kernel

/-- A REPEAT block on one line, in the form of program P5 of 95_test_vectors.md. -/
theorem test_assemble_repeat_one_line :
    assemble ["REPEAT 2 " ++ openBrace ++ " EM_TB_SIGNAL 0 ; EM_TICK 0 " ++ closeBrace ++ "   ; condition absent"] =
      some [⟨none, .emTbSignal 0⟩, ⟨none, .emTick 0⟩, ⟨none, .emTbSignal 0⟩, ⟨none, .emTick 0⟩] := by decide +kernel

/-! ## Arithmetic (2.1, 2.7) -/

theorem test_ticks : ticks 1000 1500 = 2 ∧ ticks 1000 1499 = 1 ∧ ticks 1000 499 = 0 ∧ ticks 1 500000 = 1 ∧
    ticks 48000 20833 = 1000 ∧ ticks 10000000 10000000 = 100000000 := by decide +kernel

theorem test_divisor : divisor tiny 1000 20000 = 20 ∧ divisor tiny 400 1000 = 3 ∧ divisor tiny 10 4 = 1 ∧
    divisor tiny 1000 0 = 1 ∧ divisor tiny 0 1000 = 0xFFFFFFFF ∧ divisor tiny 1 0xFFFFFFFF = 0xFFFFFFFF := by decide +kernel

/-- R13: equal ceilings, no module, too many modules, and counts that overflow are refused. -/
theorem test_legal : Params.default.legal = true ∧ tiny.legal = true ∧
    ({ tiny with maxResetUs := 5000000 } : Params).legal = false ∧ ({ tiny with M := 0 } : Params).legal = false ∧
    ({ tiny with M := 17 } : Params).legal = false ∧ ({ tiny with maxResetUs := 1000000000 } : Params).legal = false := by
  decide +kernel

/-! ## The commands, one step each -/

theorem test_nop : gives .nop armed .ok 0 0 [] [(.counter 0 .hard 0, 3)] := by decide +kernel

/-- Counts above `E` and a zero frequency are clamped (R75, as 2.2 with `E = 2`). -/
theorem test_emInit_clamps : gives (.emInit 1 0 255 64) idle .ok 1 0x202 []
      [(.freq 1, 1), (.num 1 .hard, 2), (.num 1 .soft, 2)] := by decide +kernel

/-- Latches and state stay; the record is the default one (2.2). -/
theorem test_emInit_keeps_latches :
    gives (.emInit 0 1000 1 1) latchedH .ok 1000 0x101 []
      [(.latch 0 .hard, 1), (.opState 0, 1), (.flag 0 .hard 0, 0), (.resetCount 0 .hard 0, 1)] := by decide +kernel

/-- 2.3 at 1000 Hz; a pending episode is discarded without a latch. -/
theorem test_emCfgEvent : gives (.emCfgEvent 0 .hard 0 1499 1500) pending .ok 1 2 []
      [(.flag 0 .hard 0, 0), (.latch 0 .hard, 0)] := by decide +kernel

/-- 2.3: the ceilings bind, and the index bound is `E`, not `num`. -/
theorem test_emCfgEvent_bounds :
    gives (.emCfgEvent 0 .soft 1 1000000000 1000000000) idle .ok 5000 10000 [] [] ∧
    gives (.emCfgEvent 0 .soft 2 1 1) idle .range 0 0 [] [] := by decide +kernel

/-- 2.4: a lost period is reported. -/
theorem test_emTbSignal : gives (.emTbSignal 0) pending .ok 1 0 [] [(.tbFlag 0, 1)] ∧
    gives (.emTbSignal 1) pending .ok 0 0 [] [(.tbFlag 1, 1)] := by decide +kernel

/-- 2.4: H0 counts on, S0 self-heals at its reset count. -/
theorem test_emTick : gives (.emTick 0) pending .ok 1 1 []
      [(.tbFlag 0, 0), (.flag 0 .hard 0, 1), (.counter 0 .hard 0, 2), (.flag 0 .soft 0, 0), (.counter 0 .soft 0, 0)] := by decide +kernel

/-- 2.4: no unconsumed period, nothing changes. -/
theorem test_emTick_without_period : gives (.emTick 0) armed .ok 0 0 []
      [(.counter 0 .hard 0, 3), (.counter 0 .soft 0, 4)] := by decide +kernel

/-- 2.5 row 7: the latch, with `TurnOff(0)`, from SLOWREF to INTERLOCK. -/
theorem test_setHard_latches : gives (.setHard 0 0) armed .ok 1 3 [0]
      [(.latch 0 .hard, 1), (.opState 0, 1), (.flag 0 .hard 0, 0)] := by decide +kernel

/-- 2.5 rows 1 and 8: beyond `num` RANGE; below the threshold PENDING. -/
theorem test_setHard_range_pending : gives (.setHard 0 1) idle .range 0 0 [] [] ∧
    gives (.setHard 0 0) idle .ok 0 0 [] [(.flag 0 .hard 0, 1)] := by decide +kernel

/-- R86: an already latched bit gives outcome 2 and no second `TurnOff`. -/
theorem test_setSoft_again : gives (.setSoft 0 0) armed .ok 2 4 []
      [(.latch 0 .soft, 1), (.opState 0, 3), (.flag 0 .soft 0, 0)] := by decide +kernel

/-- 2.5: a soft latch has the effects of a hard one; the hard register is another. -/
theorem test_setSoft_latches : gives (.setSoft 1 1) idle .ok 1 0 [1]
      [(.latch 1 .soft, 2), (.latch 1 .hard, 0), (.opState 1, 1)] := by decide +kernel

/-- 2.6: `safe = 0` clears the masks and leaves INTERLOCK; `safe = 1` goes to OFF. -/
theorem test_itlkReset : gives (.itlkReset 0 false) latchedH .ok 1 0 []
      [(.latch 0 .hard, 0), (.opState 0, 1), (.counter 0 .hard 0, 3)] ∧
    gives (.itlkReset 0 true) latchedH .ok 1 0 [] [(.opState 0, 0)] := by decide +kernel

/-- 2.6: a state other than INTERLOCK is not written. -/
theorem test_itlkReset_operating : gives (.itlkReset 0 true) armed .ok 0 1 []
      [(.latch 0 .soft, 0), (.opState 0, 3)] := by decide +kernel

/-- 2.6: 16 and 17 are rejected, not truncated; 15 is written. -/
theorem test_wrState : gives (.wrState 0 17) latchedH .range 0 0 [] [(.opState 0, 1)] ∧
    gives (.wrState 0 15) latchedH .ok 1 0 [] [(.opState 0, 15), (.latch 0 .hard, 1)] := by decide +kernel

/-- 2.7: N = 3, and the counter is cleared. -/
theorem test_tsConfig : gives (.tsConfig 0 400 1000) idle .ok 3 0 []
      [(.tsN 0, 3), (.tsCounter 0, 0)] ∧ gives (.tsConfig 2 1 1) idle .range 0 0 [] [] := by decide +kernel

/-- 2.7: the third step of N = 3 fires; at reset (N = 1) every step fires. -/
theorem test_tsStep : gives (.tsStep 0) idle .ok 1 0 [] [(.tsCounter 0, 0), (.tsN 0, 3)] ∧
    gives (.tsStep 1) idle .ok 1 0 [] [(.tsCounter 1, 0)] := by decide +kernel

/-- 2.7: the steps before it count. -/
theorem test_tsStep_counts : gives (.tsStep 0) { idle with slices := [{ n := 3, counter := 1 }, Slice.reset] } .ok 0 2 []
      [(.tsCounter 0, 2)] := by decide +kernel

theorem test_rdLatch : gives (.rdLatch 0 .soft) armed .ok 1 0 [] [] ∧
    gives (.rdLatch 2 .hard) armed .range 0 0 [] [] := by decide +kernel

/-- 2.5 row 10 and 2.6: state in a[3:0], tb_flag in a[8], operating in a[9], the counts in a[21:16] and a[29:24]. -/
theorem test_rdModule : gives (.rdModule 0) armed .ok 0x01010203 0x3E8 [] [] ∧
    gives (.rdModule 0) latchedH .ok 0x01010101 0x3E8 [] [(.tbFlag 0, 1)] := by decide +kernel

/-- 2.5 rows 5 and 9: ARMED is 2, PENDING is 1, and bit 16 is the latch bit. -/
theorem test_rdEvent : gives (.rdEvent 0 .hard 0) armed .ok 3 0x201 [] [] ∧
    gives (.rdEvent 0 .soft 0) armed .ok 4 0x10201 [] [] ∧
    gives (.rdEvent 0 .hard 0) pending .ok 1 0x101 [] [] := by decide +kernel

theorem test_rdEventCfg : gives (.rdEventCfg 0 .hard 0) armed .ok 3 5 [] [] ∧
    gives (.rdEventCfg 1 .soft 1) armed .ok 0 1 [] [] := by decide +kernel

theorem test_rdSlice : gives (.rdSlice 0) idle .ok 2 3 [] [] ∧
    gives (.rdSlice 2) idle .range 0 0 [] [] := by decide +kernel

/-! ## Steps -/

/-- 2.8: RD_MODULE 0 after reset at the spec's defaults. -/
theorem test_step_rdModule : stepGives (State.reset.withFetchWord 32 0x11000000) .ok 0x20200000 1 [] [] := by decide +kernel

/-- 2.5: SET_HARD 3, 0 latches at once after reset. -/
theorem test_step_setHard :
    stepGives (State.reset.withFetchWord 32 0x05300000) .ok 1 0 [3]
      [(.opState 3, 1), (.latch 3 .hard, 1)] := by decide +kernel

/-- 2.8: a reserved opcode, before the module index is looked at. -/
theorem test_step_illegal : stepGives (State.reset.withFetchWord 32 0x0FF00000) .illegal 0 0 [] [] := by decide +kernel

/-- P4, step 1: both ports present; port 0's command is taken and port 1's held. -/
def twoPorts : State :=
  { State.resetWith tiny with
    port0In := [.command ⟨0x05100000, 0, 0⟩], port1In := [.command ⟨0x10100000, 0, 0⟩, .command ⟨0, 0, 0⟩] }

theorem test_step_two_ports : stepGives twoPorts .ok 1 0 [1] [(.opState 1, 1)] ∧
    (postStep twoPorts).out.accepted = some (.isr, ⟨0x05100000, 0, 0⟩) ∧
    (postStep twoPorts).held = some ⟨0x10100000, 0, 0⟩ ∧ (postStep twoPorts).port1In.length = 1 := by decide +kernel

/-- P4, step 2: the held command is taken and sees the latch; the response goes to port 1. -/
theorem test_step_held : stepGives (postStep twoPorts) .ok 1 0 [] [] ∧ (postStep (postStep twoPorts)).held = none ∧
    ((postStep (postStep twoPorts)).responseTo .background).isSome = true ∧
    (postStep (postStep twoPorts)).responseTo .isr = none := by decide +kernel

/-- R42: two words are no command. -/
theorem test_step_partial : (postStep { idle with port0In := [.twoWords 0 0] }).out = StepOutput.quiet := by decide +kernel

/-- R140, R142: under `rst` the presented command is discarded and the registers hold their reset values. -/
def underRst : State := { latchedH with rstIn := [true], port0In := [.command ⟨0x05000000, 0, 0⟩], held := some ⟨0, 0, 0⟩ }

theorem test_step_rst : (postStep underRst).out = StepOutput.quiet ∧ (postStep underRst).held = none ∧
    (postStep underRst).read (.latch 0 .hard) = 0 ∧ (postStep underRst).read (.freq 0) = 1 := by decide +kernel

/-! ## Witnesses: the hypotheses of each obligation can be met together -/

/-- A command completes in the state that `post` computes. -/
theorem exec_post {i : Instr} {s : State} (h : (after i s).isSome = true) : exec i s = .next (post i s) := by
  obtain ⟨t, ht⟩ := Option.isSome_iff_exists.1 h
  rw [post, ht]
  exact exec_of_after ht

theorem step_post {s : State} (h : (stepped s).isSome = true) : step s = .next (postStep s) := by
  obtain ⟨t, ht⟩ := Option.isSome_iff_exists.1 h
  rw [postStep, ht]
  exact step_of_stepped ht

/-- The state after `n` steps. -/
def postSteps (n : Nat) (s : State) : State := (stepAll n s).getD s

theorem stepAll_post {n : Nat} {s : State} (h : (stepAll n s).isSome = true) : stepAll n s = some (postSteps n s) := by
  obtain ⟨t, ht⟩ := Option.isSome_iff_exists.1 h
  rw [postSteps, ht, Option.getD_some]

theorem execAll_post {cs : List Instr} {s : State} (h : (execAll cs s).isSome = true) :
    execAll cs s = some (postAll cs s) := by
  obtain ⟨t, ht⟩ := Option.isSome_iff_exists.1 h
  rw [postAll, ht, Option.getD_some]

/-! ### Encoding -/

theorem witness_DecodeOfEncodeIsIdentity :
    (Instr.emInit 15 (2 ^ 32 - 1) 255 255).wf = true ∧ (Instr.setSoft 15 255).wf = true := by decide +kernel

theorem witness_DecodedCommandsAreEncodable :
    decode ⟨0x08FFFFFF, 0xFFFFFFFF, 0xFFFFFFFF⟩ = .ok (.tsConfig 255 (2 ^ 32 - 1) (2 ^ 32 - 1)) := by decide +kernel

theorem witness_DecoderIsTotalAndUnambiguous :
    [0x0A, 0x0F, 0x15, 0xFF].all opcodeReserved = true ∧
    ([0x00, 0x09, 0x10, 0x14].all fun op => !opcodeReserved op) = true := by decide +kernel

theorem witness_IgnoredBitsHaveNoEffect :
    (∃ r ∈ opcodeMap, r.selects 0x050700FF = true ∧
      (0x050700FF : Word) &&& (r.mask ||| r.readsW0) = 0x05000000 &&& (r.mask ||| r.readsW0) ∧
      (7 : Word) &&& r.readsA = 0 &&& r.readsA ∧ (7 : Word) &&& r.readsB = 0 &&& r.readsB) ∧
    (∃ r ∈ opcodeMap, (Instr.rdSlice 255).mnemonic = r.mnemonic) ∧ ((0x00FFFFFF : Word).extractLsb' 24 8).toNat = 0 := by
  decide +kernel

theorem witness_CommandsAreTwelveBytes : (List.replicate 11 (0 : Byte)).length < 12 ∧ 3 < 4 := by decide +kernel

/-! ### Steps, ports, reset -/

theorem witness_StepRunsTheDecodedCommand :
    (let s := onPort0 (onPort1 armed ⟨0x10000000, 0, 0⟩) ⟨0x05000000, 0, 0⟩;
      s.params.legal = true ∧ s.rstAsserted = false ∧ s.chosen = some (.isr, ⟨0x05000000, 0, 0⟩) ∧
        decode ⟨0x05000000, 0, 0⟩ = .ok (.setHard 0 0)) ∧
    (let s := { onPort1 armed ⟨0x04000000, 0, 0⟩ with held := some ⟨0x0A000000, 0, 0⟩ };
      s.params.legal = true ∧ s.rstAsserted = false ∧ s.chosen = some (.background, ⟨0x0A000000, 0, 0⟩)) ∧
    (let s := onPort1 armed ⟨0x04000000, 0, 0⟩;
      s.rstAsserted = false ∧ s.chosen = some (.background, ⟨0x04000000, 0, 0⟩) ∧
        decode ⟨0x04000000, 0, 0⟩ = .ok (.emTick 0)) := by decide +kernel

theorem witness_ArbiterTakesPortZeroFirst : armed.params.legal = true ∧ armed.rstAsserted = false ∧
    (twoPorts.presented0 = some ⟨0x05100000, 0, 0⟩ ∧ twoPorts.presented1 = some ⟨0x10100000, 0, 0⟩) ∧
    ((onPort0 armed ⟨0, 0, 0⟩).presented0 = some ⟨0, 0, 0⟩ ∧ (onPort0 armed ⟨0, 0, 0⟩).presented1 = none) ∧
    ((onPort1 armed ⟨0, 0, 0⟩).presented0 = none ∧ (onPort1 armed ⟨0, 0, 0⟩).presented1 = some ⟨0, 0, 0⟩) ∧
    (armed.presented0 = none ∧ armed.presented1 = none) := by decide +kernel

theorem witness_OnlyWholeCommandsAreTaken : step twoPorts = .next (postStep twoPorts) ∧
    (postStep twoPorts).out.accepted = some (.isr, ⟨0x05100000, 0, 0⟩) ∧
    step (postStep twoPorts) = .next (postStep (postStep twoPorts)) ∧
    (postStep (postStep twoPorts)).out.accepted = some (.background, ⟨0x10100000, 0, 0⟩) ∧
    step armed = .next (postStep armed) ∧ (postStep armed).out.accepted = none ∧ armed.rstAsserted = false :=
  ⟨step_post (by decide +kernel), by decide +kernel, step_post (by decide +kernel), by decide +kernel, step_post (by decide +kernel), by decide +kernel, by decide +kernel⟩

theorem witness_ReservedOpcodeAnswersIllegal : armed.params.legal = true ∧ armed.rstAsserted = false ∧
    (∀ op ∈ [0x0A, 0x0F, 0x15, 0xFF],
      (onPort0 armed ⟨BitVec.ofNat 32 (op * 2 ^ 24), 0, 0⟩).chosen =
        some (.isr, ⟨BitVec.ofNat 32 (op * 2 ^ 24), 0, 0⟩)) ∧
    (0x0A ≤ ((0x0F000000 : Word).extractLsb' 24 8).toNat ∧ ((0x0F000000 : Word).extractLsb' 24 8).toNat ≤ 0x0F) ∧
    (0x15 ≤ ((0x15000000 : Word).extractLsb' 24 8).toNat ∧ ((0x15000000 : Word).extractLsb' 24 8).toNat ≤ 0xFF) := by
  decide +kernel

theorem witness_NoStepStops : underRst.params.legal = true ∧ twoPorts.params.legal = true := by decide +kernel

theorem witness_OneResponsePerCommand : step twoPorts = .next (postStep twoPorts) ∧
    ((postStep twoPorts).responseTo .isr).isSome = true ∧
    (let s := onPort0 armed ⟨0x0FF00000, 0, 0⟩;
      step s = .next (postStep s) ∧ ((postStep s).responseTo .isr).map (fun r => r.words.1) = some 2) :=
  ⟨step_post (by decide +kernel), by decide +kernel, step_post (by decide +kernel), by decide +kernel⟩

theorem witness_AssertedResetDiscardsAndResets : underRst.params.legal = true ∧ underRst.rstAsserted = true := by decide +kernel

theorem witness_ResetValuesAreTheTables : Params.default.legal = true ∧ 3 < Params.default.M ∧ 31 < Params.default.E ∧
    7 < Params.default.S := by decide +kernel

theorem witness_ParameterConstraintsAreChecked :
    ({ armed with params := { tiny with S := 257 } } : State).params.legal = false := by decide +kernel

theorem witness_PortsKeepTheirCommandsInOrder : twoPorts.params.legal = true ∧ (∀ b ∈ twoPorts.rstIn, b = false) ∧
    stepAll 2 twoPorts = some (postSteps 2 twoPorts) := ⟨by decide +kernel, by decide +kernel, stepAll_post (by decide +kernel)⟩

theorem witness_BusyPortZeroStarvesPortOne :
    let s := { armed with held := some ⟨0, 0, 0⟩, port0In := [.command ⟨0x04000000, 0, 0⟩, .command ⟨0x03000000, 0, 0⟩] }
    s.params.legal = true ∧ (∀ b ∈ s.rstIn, b = false) ∧ s.held = some ⟨0, 0, 0⟩ ∧
      s.port0In = [(⟨0x04000000, 0, 0⟩ : Command), ⟨0x03000000, 0, 0⟩].map Presented.command := by decide +kernel

/-! ### The invariant and the conversion functions -/

theorem inv_idle : idle.Inv := by decide +kernel

theorem inv_pending : pending.Inv := by decide +kernel

theorem inv_armed : armed.Inv := by decide +kernel

theorem inv_latchedH : latchedH.Inv := by decide +kernel

theorem inv_twoPorts : twoPorts.Inv := by decide +kernel

theorem witness_StepKeepsInvariant : twoPorts.Inv ∧ step twoPorts = .next (postStep twoPorts) ∧ underRst.Inv ∧
    step underRst = .next (postStep underRst) :=
  ⟨inv_twoPorts, step_post (by decide +kernel), inv_latchedH, step_post (by decide +kernel)⟩

theorem witness_ResetStateIsFailSafe : tiny.legal = true ∧ 1 < tiny.M ∧ 1 < tiny.E := by decide +kernel

theorem witness_TicksRoundsTiesUp : (1000 : Nat) ≤ 1000 ∧ 1499 ≤ 1500 := by decide +kernel

theorem witness_ConfiguredCountsAreClamped : tiny.legal = true ∧ 1 ≤ 1 ∧ 1 ≤ tiny.fMax ∧ 1 ≤ tiny.fMax ∧
    tiny.fMax ≤ tiny.fMax := by decide +kernel

theorem witness_DivisorRoundsAndClamps : tiny.legal = true ∧ 2 ^ 32 - 1 < 2 ^ 32 ∧ 1 ≤ 1 := by decide +kernel

/-! ### The commands, one by one -/

theorem witness_NopOnlyResponds : ((0x00FFFFFF : Word).extractLsb' 24 8).toNat = 0x00 := by decide +kernel

theorem witness_EmInitInitialisesTheModule : ((0x01100000 : Word).extractLsb' 24 8).toNat = 0x01 ∧
    (pending.Inv ∧ 2 ^ 32 - 1 < 2 ^ 32 ∧ 1 < pending.params.M ∧ 1 < pending.params.E) ∧ pending.params.M ≤ 2 :=
  ⟨by decide +kernel, ⟨inv_pending, by decide +kernel⟩, by decide +kernel⟩

theorem witness_EmCfgEventConfiguresTheEvent : ((0x02180400 : Word).extractLsb' 24 8).toNat = 0x02 ∧
    (pending.Inv ∧ 0 < pending.params.M ∧ 1 < pending.params.E) ∧ (pending.params.M ≤ 2 ∨ pending.params.E ≤ 0) ∧
    (pending.params.M ≤ 0 ∨ pending.params.E ≤ 2) :=
  ⟨by decide +kernel, ⟨inv_pending, by decide +kernel⟩, by decide +kernel⟩

theorem witness_EmTbSignalSetsTheFlag : ((0x03000000 : Word).extractLsb' 24 8).toNat = 0x03 ∧
    (pending.Inv ∧ 1 < pending.params.M) ∧ pending.params.M ≤ 2 := ⟨by decide +kernel, ⟨inv_pending, by decide +kernel⟩, by decide +kernel⟩

theorem witness_EmTickAdvancesFlaggedEvents : ((0x04F00000 : Word).extractLsb' 24 8).toNat = 0x04 ∧
    (pending.Inv ∧ 0 < pending.params.M ∧ pending.read (.tbFlag 0) = 1 ∧
      (0 < pending.read (.num 0 .hard) ∧ pending.read (.flag 0 .hard 0) = 1 ∧
        pending.read (.counter 0 .hard 0) + 1 < pending.read (.resetCount 0 .hard 0)) ∧
      (0 < pending.read (.num 0 .soft) ∧ pending.read (.flag 0 .soft 0) = 1 ∧
        pending.read (.resetCount 0 .soft 0) ≤ pending.read (.counter 0 .soft 0) + 1)) ∧
    (0 < armed.params.M ∧ armed.read (.tbFlag 0) = 0) ∧ armed.params.M ≤ 2 :=
  ⟨by decide +kernel, ⟨inv_pending, by decide +kernel⟩, by decide +kernel, by decide +kernel⟩

theorem witness_SetHardDebouncesAndLatches :
    (((0x050700FF : Word).extractLsb' 24 8).toNat = 0x05 ∧ ((0x050700FF : Word).extractLsb' 19 1).toNat = 0) ∧
    (pending.Inv ∧ 0 < pending.params.M ∧ 0 < pending.read (.num 0 .hard) ∧
      pending.read (.counter 0 .hard 0) < pending.read (.debounceCount 0 .hard 0)) ∧
    (armed.Inv ∧ 0 < armed.read (.num 0 .hard) ∧
      armed.read (.debounceCount 0 .hard 0) ≤ armed.read (.counter 0 .hard 0) ∧ armed.latchBit 0 .hard 0 = false) ∧
    (latchedH.Inv ∧ 0 < latchedH.read (.num 0 .hard) ∧
      latchedH.read (.debounceCount 0 .hard 0) ≤ latchedH.read (.counter 0 .hard 0) ∧
      latchedH.latchBit 0 .hard 0 = true) ∧
    (armed.params.M ≤ 2 ∨ armed.read (.num 2 .hard) ≤ 0) ∧ (armed.params.M ≤ 0 ∨ armed.read (.num 0 .hard) ≤ 1) :=
  ⟨by decide +kernel, ⟨inv_pending, by decide +kernel⟩, ⟨inv_armed, by decide +kernel⟩, ⟨inv_latchedH, by decide +kernel⟩, by decide +kernel, by decide +kernel⟩

theorem witness_SetSoftDebouncesAndLatches :
    (((0x05280500 : Word).extractLsb' 24 8).toNat = 0x05 ∧ ((0x05280500 : Word).extractLsb' 19 1).toNat = 1) ∧
    (latchedH.Inv ∧ 0 < latchedH.params.M ∧ 0 < latchedH.read (.num 0 .soft) ∧
      latchedH.read (.counter 0 .soft 0) < latchedH.read (.debounceCount 0 .soft 0)) ∧
    (pending.Inv ∧ 0 < pending.read (.num 0 .soft) ∧
      pending.read (.debounceCount 0 .soft 0) ≤ pending.read (.counter 0 .soft 0) ∧
      pending.latchBit 0 .soft 0 = false) ∧
    (armed.Inv ∧ 0 < armed.read (.num 0 .soft) ∧
      armed.read (.debounceCount 0 .soft 0) ≤ armed.read (.counter 0 .soft 0) ∧ armed.latchBit 0 .soft 0 = true) ∧
    (armed.params.M ≤ 2 ∨ armed.read (.num 2 .soft) ≤ 0) ∧ (armed.params.M ≤ 0 ∨ armed.read (.num 0 .soft) ≤ 1) :=
  ⟨by decide +kernel, ⟨inv_latchedH, by decide +kernel⟩, ⟨inv_pending, by decide +kernel⟩, ⟨inv_armed, by decide +kernel⟩, by decide +kernel, by decide +kernel⟩

theorem witness_ItlkResetClearsTheLatches : ((0x06200000 : Word).extractLsb' 24 8).toNat = 0x06 ∧
    (latchedH.Inv ∧ 0 < latchedH.params.M ∧ latchedH.read (.opState 0) = 1) ∧ latchedH.params.M ≤ 2 :=
  ⟨by decide +kernel, ⟨inv_latchedH, by decide +kernel⟩, by decide +kernel⟩

theorem witness_WrStateWritesTheState : ((0x07000000 : Word).extractLsb' 24 8).toNat = 0x07 ∧
    (latchedH.Inv ∧ 0 < latchedH.params.M ∧ 15 < 16) ∧ (latchedH.params.M ≤ 0 ∨ 16 ≤ 16) ∧
    (latchedH.params.M ≤ 2 ∨ 16 ≤ 0) := ⟨by decide +kernel, ⟨inv_latchedH, by decide +kernel⟩, by decide +kernel⟩

theorem witness_TsConfigSetsTheDivisor : ((0x08000800 : Word).extractLsb' 24 8).toNat = 0x08 ∧
    (idle.Inv ∧ 1 < idle.params.S) ∧ idle.params.S ≤ 2 := ⟨by decide +kernel, ⟨inv_idle, by decide +kernel⟩, by decide +kernel⟩

theorem witness_TsStepCountsAndFires : ((0x09000000 : Word).extractLsb' 24 8).toNat = 0x09 ∧
    (idle.Inv ∧ 0 < idle.params.S ∧ idle.read (.tsN 0) ≤ idle.read (.tsCounter 0) + 1) ∧ idle.params.S ≤ 2 :=
  ⟨by decide +kernel, ⟨inv_idle, by decide +kernel⟩, by decide +kernel⟩

theorem witness_RdLatchReturnsTheRegister : ((0x10080000 : Word).extractLsb' 24 8).toNat = 0x10 ∧
    (armed.Inv ∧ 1 < armed.params.M) ∧ armed.params.M ≤ 2 := ⟨by decide +kernel, ⟨inv_armed, by decide +kernel⟩, by decide +kernel⟩

theorem witness_RdModuleReturnsTheStateWord : ((0x11000000 : Word).extractLsb' 24 8).toNat = 0x11 ∧
    1 < armed.params.M ∧ armed.params.M ≤ 2 := by decide +kernel

theorem witness_RdEventReturnsTheSnapshot : ((0x12002000 : Word).extractLsb' 24 8).toNat = 0x12 ∧
    (0 < armed.params.M ∧ 1 < armed.params.E) ∧ (armed.params.M ≤ 2 ∨ armed.params.E ≤ 0) ∧
    (armed.params.M ≤ 0 ∨ armed.params.E ≤ 2) := by decide +kernel

theorem witness_RdEventCfgReturnsTheCounts : ((0x13081F00 : Word).extractLsb' 24 8).toNat = 0x13 ∧
    (0 < armed.params.M ∧ 1 < armed.params.E) ∧ (armed.params.M ≤ 2 ∨ armed.params.E ≤ 0) ∧
    (armed.params.M ≤ 0 ∨ armed.params.E ≤ 2) := by decide +kernel

theorem witness_RdSliceReturnsTheSlice : ((0x14000700 : Word).extractLsb' 24 8).toNat = 0x14 ∧ 1 < idle.params.S ∧
    idle.params.S ≤ 2 := by decide +kernel

/-! ### Rules about the whole machine -/

theorem witness_RangeExactlyWhenAnIndexIsOut : rangeFails armed (.setHard 0 1) = true ∧
    rangeFails armed (.setHard 0 0) = false ∧ rangeFails armed (.wrState 1 16) = true ∧
    rangeFails armed (.wrState 1 15) = false ∧ rangeFails armed (.rdEvent 2 .hard 0) = true ∧
    rangeFails armed (.tsStep 2) = true ∧ rangeFails armed .nop = false := by decide +kernel

theorem witness_OnlyListedCommandsWriteARegister : exec (.emTick 0) pending = .next (post (.emTick 0) pending) ∧
    (Reg.debounceCount 0 .hard 0).writtenBy (.emTick 0) = false ∧ (Reg.tbFlag 1).writtenBy (.emTick 0) = false :=
  ⟨exec_post (by decide +kernel), by decide +kernel, by decide +kernel⟩

/-- `armed`, with module 1 and slice 0 changed. -/
def armedElsewhere : State := post (.tsConfig 0 1 5) (post (.emInit 1 7 1 2) armed)

theorem inv_armedElsewhere : { armedElsewhere with out := armed.out }.Inv := by decide +kernel

theorem witness_ModulesAreIndependent :
    let s' := { armedElsewhere with out := armed.out }
    (Instr.setHard 0 0).module = some 0 ∧ armed.Inv ∧ s'.Inv ∧ armed.params = s'.params ∧ armed.out = s'.out ∧
      (∀ r : Reg, r.module = some 0 → armed.read r = s'.read r) ∧
      exec (.setHard 0 0) armed = .next (post (.setHard 0 0) armed) ∧
      exec (.setHard 0 0) s' = .next (post (.setHard 0 0) s') ∧ armed.read (.freq 1) ≠ s'.read (.freq 1) := by
  refine ⟨rfl, inv_armed, inv_armedElsewhere, rfl, rfl, ?_, exec_post (by decide +kernel), exec_post (by decide +kernel),
    by decide +kernel⟩
  intro r hr
  have h : armed.mod 0 = { armedElsewhere with out := armed.out }.mod 0 := by decide +kernel
  cases r <;> simp only [Reg.module, Option.some.injEq, reduceCtorEq] at hr <;> subst hr <;>
    simp only [State.read, State.num, State.event, State.latch, State.opState, h]

theorem witness_SlicesAreIndependent :
    let s' := { armedElsewhere with out := armed.out }
    (Instr.tsStep 1).slice = some 1 ∧ armed.Inv ∧ s'.Inv ∧ armed.params = s'.params ∧ armed.out = s'.out ∧
      (∀ r : Reg, r.slice = some 1 → armed.read r = s'.read r) ∧
      exec (.tsStep 1) armed = .next (post (.tsStep 1) armed) ∧ exec (.tsStep 1) s' = .next (post (.tsStep 1) s') ∧
      armed.read (.tsN 0) ≠ s'.read (.tsN 0) := by
  refine ⟨rfl, inv_armed, inv_armedElsewhere, rfl, rfl, ?_, exec_post (by decide +kernel), exec_post (by decide +kernel),
    by decide +kernel⟩
  intro r hr
  have h : armed.slice 1 = { armedElsewhere with out := armed.out }.slice 1 := by decide +kernel
  cases r <;> simp only [Reg.slice, Option.some.injEq, reduceCtorEq] at hr <;> subst hr <;>
    simp only [State.read, h]

theorem witness_IdempotencyOfCommands :
    (exec (.rdModule 0) pending = .next (post (.rdModule 0) pending) ∧
      exec (.rdModule 0) (post (.rdModule 0) pending) = .next (post (.rdModule 0) (post (.rdModule 0) pending))) ∧
    (pending.Inv ∧ (Instr.emTick 0).wf = true ∧ exec (.emTick 0) pending = .next (post (.emTick 0) pending) ∧
      exec (.emTick 0) (post (.emTick 0) pending) = .next (post (.emTick 0) (post (.emTick 0) pending))) ∧
    ((∀ c ∈ [Instr.setHard 0 0], c ≠ .emTbSignal 0) ∧
      execAll [.setHard 0 0] (post (.emTick 0) pending) = some (postAll [.setHard 0 0] (post (.emTick 0) pending))) ∧
    (latchedH.latchBit 0 .hard 0 = true ∧
      exec (setCommand 0 .hard 0) latchedH = .next (post (setCommand 0 .hard 0) latchedH)) :=
  ⟨⟨exec_post (by decide +kernel), exec_post (by decide +kernel)⟩,
    ⟨inv_pending, by decide +kernel, exec_post (by decide +kernel), exec_post (by decide +kernel)⟩,
    ⟨by decide +kernel, execAll_post (by decide +kernel)⟩, by decide +kernel, exec_post (by decide +kernel)⟩

theorem witness_TurnOffExactlyOnANewLatch :
    let s := onPort0 armed ⟨0x05000000, 0, 0⟩
    s.Inv ∧ step s = .next (postStep s) ∧ 0 < s.params.M ∧ 0 ∈ (postStep s).out.turnOff ∧
      s.latchBit 0 .hard 0 = false ∧ (postStep s).latchBit 0 .hard 0 = true :=
  ⟨inv_armed, step_post (by decide +kernel), by decide +kernel⟩

theorem witness_LatchHoldsUntilReset :
    (armed.Inv ∧ 0 < armed.params.M ∧ exec (setCommand 0 .hard 0) armed = .next (post (.setHard 0 0) armed) ∧
      armed.latchBit 0 .hard 0 = false ∧ (post (.setHard 0 0) armed).latchBit 0 .hard 0 = true ∧
      (∀ c ∈ [Instr.itlkReset 0 false, .setSoft 0 0, .emInit 0 1 1 1],
        c.wf = true ∧ c ≠ .itlkReset 0 true ∧ ∀ v, c ≠ .wrState 0 v) ∧
      execAll [.itlkReset 0 false, .setSoft 0 0, .emInit 0 1 1 1] (post (.setHard 0 0) armed) =
        some (postAll [.itlkReset 0 false, .setSoft 0 0, .emInit 0 1 1 1] (post (.setHard 0 0) armed))) ∧
    exec (.emTick 0) pending = .next (post (.emTick 0) pending) ∧
    (latchedH.latchBit 0 .hard 0 = true ∧ (∀ c ∈ [Instr.wrState 0 0, .setHard 0 0], ∀ b, c ≠ .itlkReset 0 b) ∧
      execAll [.wrState 0 0, .setHard 0 0] latchedH = some (postAll [.wrState 0 0, .setHard 0 0] latchedH)) :=
  ⟨⟨inv_armed, by decide +kernel, exec_post (by decide +kernel), by decide +kernel, by decide +kernel, by simp [Instr.wf, idFits, idxFits, wordFits, countFits],
      execAll_post (by decide +kernel)⟩, exec_post (by decide +kernel), by decide +kernel, by simp, execAll_post (by decide +kernel)⟩

theorem witness_EachLatchBitTurnsOffOnce : armed.Inv ∧ 0 < armed.params.M ∧
    (∀ c ∈ [Instr.setHard 0 0, .setSoft 0 0], c.wf = true ∧ ∀ b, c ≠ .itlkReset 0 b) ∧
    execAll [.setHard 0 0, .setSoft 0 0] armed = some (postAll [.setHard 0 0, .setSoft 0 0] armed) :=
  ⟨inv_armed, by decide +kernel, by simp [Instr.wf, idFits, idxFits], execAll_post (by decide +kernel)⟩

theorem witness_EventFollowsTheTransitionTable :
    (idle.Inv ∧ 0 < idle.params.M ∧ 0 < idle.read (.num 0 .hard) ∧ (idle.event 0 .hard 0).phase = .idle ∧
      0 < idle.read (.debounceCount 0 .hard 0)) ∧
    (idle.Inv ∧ 1 < idle.params.M ∧ 1 < idle.read (.num 1 .soft) ∧ (idle.event 1 .soft 1).phase = .idle ∧
      idle.read (.debounceCount 1 .soft 1) = 0) ∧
    (pending.Inv ∧ pending.read (.tbFlag 0) = 1 ∧ (pending.event 0 .hard 0).phase = .pending ∧
      pending.read (.counter 0 .hard 0) + 1 < pending.read (.debounceCount 0 .hard 0) ∧
      (pending.event 0 .soft 0).phase = .armed ∧
      pending.read (.resetCount 0 .soft 0) ≤ pending.read (.counter 0 .soft 0) + 1) ∧
    (latchedH.Inv ∧ latchedH.read (.tbFlag 0) = 1 ∧ (latchedH.event 0 .soft 0).phase = .pending ∧
      latchedH.read (.counter 0 .soft 0) + 1 = latchedH.read (.debounceCount 0 .soft 0) ∧
      (latchedH.event 0 .hard 0).phase = .armed ∧
      latchedH.read (.counter 0 .hard 0) + 1 < latchedH.read (.resetCount 0 .hard 0)) ∧
    armed.read (.tbFlag 0) = 0 ∧ exec (.wrState 0 3) armed = .next (post (.wrState 0 3) armed) :=
  ⟨⟨inv_idle, by decide +kernel⟩, ⟨inv_idle, by decide +kernel⟩, ⟨inv_pending, by decide +kernel⟩, ⟨inv_latchedH, by decide +kernel⟩, by decide +kernel,
    exec_post (by decide +kernel)⟩

theorem witness_EpisodeCounterCountsConsumedTicks :
    let cs := [Instr.setHard 0 0, .emTick 0, .setSoft 0 0]
    pending.Inv ∧ 0 < pending.params.M ∧ 0 < pending.read (.num 0 .hard) ∧ pending.read (.flag 0 .hard 0) = 1 ∧
      (∀ c ∈ cs, c.wf = true ∧ (∀ f nh ns, c ≠ .emInit 0 f nh ns) ∧ ∀ d r, c ≠ .emCfgEvent 0 .hard 0 d r) ∧
      pending.read (.counter 0 .hard 0) + ticksConsumed 0 cs pending < pending.read (.resetCount 0 .hard 0) ∧
      (setCommand 0 .hard 0 ∈ cs ∧
        pending.read (.counter 0 .hard 0) + ticksConsumed 0 cs pending < pending.read (.debounceCount 0 .hard 0)) ∧
      execAll cs pending = some (postAll cs pending) :=
  ⟨inv_pending, by decide +kernel, by decide +kernel, by decide +kernel, by simp [Instr.wf, idFits, idxFits], by decide +kernel, by decide +kernel,
    execAll_post (by decide +kernel)⟩

theorem witness_UnrepeatedEventSelfHeals :
    let cs := [Instr.setHard 0 0, .emTbSignal 0]
    let u := postAll cs armed
    armed.Inv ∧ 0 < armed.params.M ∧ 0 < armed.read (.num 0 .soft) ∧ armed.read (.flag 0 .soft 0) = 1 ∧
      (∀ c ∈ cs, c.wf = true ∧ (∀ f nh ns, c ≠ .emInit 0 f nh ns) ∧ (∀ d r, c ≠ .emCfgEvent 0 .soft 0 d r) ∧
        c ≠ setCommand 0 .soft 0) ∧
      armed.read (.counter 0 .soft 0) + ticksConsumed 0 cs armed + 1 = armed.read (.resetCount 0 .soft 0) ∧
      execAll cs armed = some u ∧ u.read (.tbFlag 0) = 1 ∧ exec (.emTick 0) u = .next (post (.emTick 0) u) :=
  ⟨inv_armed, by decide +kernel, by decide +kernel, by decide +kernel, by simp [Instr.wf, idFits, idxFits, setCommand], by decide +kernel,
    execAll_post (by decide +kernel), by decide +kernel, exec_post (by decide +kernel)⟩

theorem witness_PersistentConditionLatchesAtTheDebounceCount :
    idle.Inv ∧ 0 < idle.params.M ∧ 0 < idle.read (.num 0 .hard) ∧ idle.read (.flag 0 .hard 0) = 0 ∧
      (2 < idle.read (.debounceCount 0 .hard 0) ∧ 3 = idle.read (.debounceCount 0 .hard 0)) ∧
      ∀ n ∈ [2, 3], ∃ u, execAll
        (setCommand 0 .hard 0 :: (List.replicate n [Instr.emTbSignal 0, .emTick 0, setCommand 0 .hard 0]).flatten) idle =
          some u := by
  refine ⟨inv_idle, by decide +kernel, by decide +kernel, by decide +kernel, by decide +kernel, fun n hn => ?_⟩
  simp only [List.mem_cons, List.not_mem_nil, or_false] at hn
  rcases hn with rfl | rfl <;> exact Option.isSome_iff_exists.1 (by decide +kernel)

theorem witness_SliceFiresEveryNthStep :
    let t := post (.tsConfig 1 400 1000) idle
    let cs := [Instr.tsStep 1, .tsStep 0, .tsStep 1]
    let u := postAll cs t
    idle.Inv ∧ 1 < idle.params.S ∧ exec (.tsConfig 1 400 1000) idle = .next t ∧
      (∀ c ∈ cs, c.wf = true ∧ ∀ tg m, c ≠ .tsConfig 1 tg m) ∧ execAll cs t = some u ∧
      exec (.tsStep 1) u = .next (post (.tsStep 1) u) ∧ t.read (.tsN 1) = 3 ∧ cs.count (.tsStep 1) = 2 :=
  ⟨inv_idle, by decide +kernel, exec_post (by decide +kernel), by simp [Instr.wf, idxFits], execAll_post (by decide +kernel),
    exec_post (by decide +kernel), by decide +kernel, by decide +kernel⟩

end Sys2Proof.Tests
end

section
/-! PROOFS. Encoding: the rows that select a header and the decoder's answer (R57, R58), a reserved opcode in a step
(R60), and the range checks of every command (R59). -/

namespace Sys2Proof

/-! ### The opcode map selects at most one row (R57) -/

/-- Two rows that select one header agree where both masks look, and no two rows of the map do. -/
theorem row_eq_of_selects {r r' : OpcodeRow} (hr : r ∈ opcodeMap) (hr' : r' ∈ opcodeMap) {w0 : Word}
    (h : r.selects w0 = true) (h' : r'.selects w0 = true) : r = r' := by
  have hclash : ∀ x ∈ opcodeMap, ∀ y ∈ opcodeMap, x.pattern &&& y.mask = y.pattern &&& x.mask → x = y := by decide
  refine hclash r hr r' hr' ?_
  rw [← beq_iff_eq.1 h, ← beq_iff_eq.1 h', BitVec.and_assoc, BitVec.and_assoc, BitVec.and_comm r.mask]

/-- Every row looks at the whole of OP, and no row's OP is reserved (R60). -/
theorem not_reserved_of_selects {r : OpcodeRow} (hr : r ∈ opcodeMap) {w0 : Word} (h : r.selects w0 = true) :
    opcodeReserved (field w0 24 8) = false := by
  have hrow : ∀ x ∈ opcodeMap, x.mask &&& 0xFF000000 = 0xFF000000 ∧
      x.pattern &&& 0xFF000000 = x.pattern.extractLsb' 24 8 ++ 0#24 ∧
      opcodeReserved (field x.pattern 24 8) = false := by decide
  obtain ⟨hmask, hpat, hres⟩ := hrow r hr
  have hop : w0.extractLsb' 24 8 = r.pattern.extractLsb' 24 8 := by
    rw [← mask_op, ← hpat, ← beq_iff_eq.1 h, BitVec.and_assoc, hmask]
  rwa [field, hop]

/-- A row whose mask is OP alone selects every header with its OP. -/
theorem selects_of_op {r : OpcodeRow} (n : BitVec 8) (hm : r.mask = 0xFF000000) (hp : r.pattern = n ++ 0#24)
    {c : Command} (h : c.op = n.toNat) : r.selects c.w0 = true := by
  rw [OpcodeRow.selects, beq_iff_eq, hm, hp, mask_op]
  exact BitVec.eq_of_toNat_eq h

/-- A row whose mask is OP and K selects every header with its OP and its K. -/
theorem selects_of_op_k {r : OpcodeRow} (n : BitVec 8) (k : BitVec 1) (hm : r.mask = 0xFF080000)
    (hp : r.pattern = n ++ 0#4 ++ k ++ 0#19) {c : Command} (h : c.op = n.toNat) (hk : field c.w0 19 1 = k.toNat) :
    r.selects c.w0 = true := by
  rw [OpcodeRow.selects, beq_iff_eq, hm, hp, mask_op_k]
  exact ⟨BitVec.eq_of_toNat_eq h, BitVec.eq_of_toNat_eq hk⟩

/-- The K bit of a header is its kind's bit (R53). -/
theorem field_k_eq_bit (c : Command) : field c.w0 19 1 = c.kind.bit := by
  have := field_lt c.w0 19 1
  unfold Command.kind
  split <;> simp only [Kind.bit] <;> omega

/-! ### What the decoder answers (R58, R60) -/

theorem opcodeReserved_iff {op : Nat} :
    opcodeReserved op = true ↔ (0x0A ≤ op ∧ op ≤ 0x0F) ∨ (0x15 ≤ op ∧ op ≤ 0xFF) := by
  simp [opcodeReserved]

/-- The decoder answers a command of a row that selects the header. -/
theorem row_of_decode_ok {c : Command} {i : Instr} (h : decode c = .ok i) :
    ∃ r ∈ opcodeMap, r.selects c.w0 = true ∧ i.mnemonic = r.mnemonic := by
  have of_row (n : Nat) (hn : n < opcodeMap.length) (hs : opcodeMap[n].selects c.w0 = true)
      (hm : i.mnemonic = opcodeMap[n].mnemonic) : ∃ r ∈ opcodeMap, r.selects c.w0 = true ∧ i.mnemonic = r.mnemonic :=
    ⟨_, List.getElem_mem hn, hs, hm⟩
  unfold decode at h
  split at h
  case h_1 hop => cases h; exact of_row 0 (by decide) (selects_of_op 0x00 rfl rfl hop) rfl
  case h_2 hop => cases h; exact of_row 1 (by decide) (selects_of_op 0x01 rfl rfl hop) rfl
  case h_3 hop => cases h; exact of_row 2 (by decide) (selects_of_op 0x02 rfl rfl hop) rfl
  case h_4 hop => cases h; exact of_row 3 (by decide) (selects_of_op 0x03 rfl rfl hop) rfl
  case h_5 hop => cases h; exact of_row 4 (by decide) (selects_of_op 0x04 rfl rfl hop) rfl
  case h_6 hop =>
    have hbit := field_k_eq_bit c
    split at h <;> rename_i hk <;> rw [hk] at hbit <;> cases h
    · exact of_row 5 (by decide) (selects_of_op_k 0x05 0 rfl rfl hop hbit) rfl
    · exact of_row 6 (by decide) (selects_of_op_k 0x05 1 rfl rfl hop hbit) rfl
  case h_7 hop => cases h; exact of_row 7 (by decide) (selects_of_op 0x06 rfl rfl hop) rfl
  case h_8 hop => cases h; exact of_row 8 (by decide) (selects_of_op 0x07 rfl rfl hop) rfl
  case h_9 hop => cases h; exact of_row 9 (by decide) (selects_of_op 0x08 rfl rfl hop) rfl
  case h_10 hop => cases h; exact of_row 10 (by decide) (selects_of_op 0x09 rfl rfl hop) rfl
  case h_11 hop => cases h; exact of_row 11 (by decide) (selects_of_op 0x10 rfl rfl hop) rfl
  case h_12 hop => cases h; exact of_row 12 (by decide) (selects_of_op 0x11 rfl rfl hop) rfl
  case h_13 hop => cases h; exact of_row 13 (by decide) (selects_of_op 0x12 rfl rfl hop) rfl
  case h_14 hop => cases h; exact of_row 14 (by decide) (selects_of_op 0x13 rfl rfl hop) rfl
  case h_15 hop => cases h; exact of_row 15 (by decide) (selects_of_op 0x14 rfl rfl hop) rfl
  case h_16 => cases h

/-- The decoder rejects reserved opcodes only, and by name. -/
theorem reserved_of_decode_error {c : Command} {e : DecodeError} (h : decode c = .error e) :
    opcodeReserved c.op = true ∧ e = .reservedOpcode c.op := by
  have hlt : c.op < 2 ^ 8 := field_lt c.w0 24 8
  unfold decode at h
  split at h
  case h_6 => split at h <;> cases h
  case h_16 =>
    cases h
    refine ⟨opcodeReserved_iff.2 ?_, rfl⟩
    simp only [imp_false] at *
    omega
  all_goals cases h

/-- A reserved opcode is rejected by name, whatever the other fields hold (R60). -/
theorem decode_of_reserved {c : Command} (h : opcodeReserved c.op = true) :
    decode c = .error (.reservedOpcode c.op) := by
  cases hd : decode c with
  | error e => rw [(reserved_of_decode_error hd).2]
  | ok i =>
    obtain ⟨r, hr, hs, -⟩ := row_of_decode_ok hd
    exact absurd h (Bool.eq_false_iff.1 (not_reserved_of_selects hr hs))

/-- An opcode that is not reserved decodes to a command of a row that selects it. -/
theorem decode_of_not_reserved {c : Command} (h : opcodeReserved c.op ≠ true) :
    ∃ r ∈ opcodeMap, r.selects c.w0 = true ∧ ∃ i, decode c = .ok i ∧ i.mnemonic = r.mnemonic := by
  cases hd : decode c with
  | error e => exact absurd (reserved_of_decode_error hd).1 h
  | ok i =>
    obtain ⟨r, hr, hs, hm⟩ := row_of_decode_ok hd
    exact ⟨r, hr, hs, i, rfl, hm⟩

/-- Settles O4: rows selecting one header are the same row, so the one that the decoder answers by is the only one. -/
theorem decoderIsTotalAndUnambiguous : Obligations.DecoderIsTotalAndUnambiguous := by
  intro w0
  split
  case isTrue hres =>
    refine ⟨fun r hr => Bool.eq_false_iff.2 fun hs => ?_, fun w1 w2 => decode_of_reserved (c := ⟨w0, w1, w2⟩) hres⟩
    exact absurd hres (Bool.eq_false_iff.1 (not_reserved_of_selects hr hs))
  case isFalse hres =>
    obtain ⟨r, hr, hs, -⟩ := decode_of_not_reserved (c := ⟨w0, 0, 0⟩) hres
    refine ⟨r, hr, hs, fun r' hr' hs' => row_eq_of_selects hr' hr hs' hs, fun w1 w2 => ?_⟩
    obtain ⟨r', hr', hs', hdec⟩ := decode_of_not_reserved (c := ⟨w0, w1, w2⟩) hres
    rwa [row_eq_of_selects hr' hr hs' hs] at hdec

end Sys2Proof

namespace Sys2Proof.Machine

/-! ### A reserved opcode in a step (R60) -/

/-- A step that takes a command with a reserved opcode only answers ILLEGAL. -/
theorem step_of_reserved {s : State} {p : Port} {c : Command} (hp : s.params.legal = true)
    (hrst : s.rstAsserted = false) (hc : s.chosen = some (p, c)) (hres : opcodeReserved c.op = true) :
    step s = .next s.beginStep.illegalError := by
  simp [step, hp, hrst, hc, decode_of_reserved hres]

/-- Settles O11: the step is the ILLEGAL response on the begun step, which writes no register. -/
theorem reservedOpcodeAnswersIllegal : Obligations.ReservedOpcodeAnswersIllegal := by
  intro s p c hp hrst hc hop
  exact ⟨_, step_of_reserved hp hrst hc (opcodeReserved_iff.2 hop), by simp [hc], by simp [Responds], by simp, by simp⟩

/-! ### Range checks (R59) -/

/-- The outcome is a next state with response OK. -/
def AnswersOk (o : Host.Outcome State Fault Refusal) : Prop := ∃ t a b, o = .next t ∧ Responds .ok a b t

theorem answersOk_respond (s : State) (a b : Word) : AnswersOk (.next (s.respond .ok a b)) :=
  ⟨_, a.toNat, b.toNat, rfl, (respond_ok_only s a b).1⟩

/-- A command whose range check holds answers what it does after the check. -/
theorem answersOk_of_check {p : Prop} [Decidable p] {o o' : Host.Outcome State Fault Refusal} (hp : p)
    (ho : AnswersOk o) : AnswersOk (if p then o else o') := by
  rwa [if_pos hp]

/-- The set procedure answers RANGE beyond `M` or beyond the configured count (R86). -/
theorem setProcedure_of_range {s : State} {id : Nat} {k : Kind} {i : Nat} (h : s.params.M ≤ id ∨ s.num id k ≤ i) :
    s.setProcedure id k i = s.rangeError := by
  rcases s.setProcedure_cases id k i with ⟨-, hres⟩ | ⟨hid, hi, -⟩
  · exact hres
  · omega

/-- The set procedure answers OK on a configured event, latching or not (R86). -/
theorem setProcedure_answersOk {s : State} {id : Nat} {k : Kind} {i : Nat} (hid : id < s.params.M)
    (hi : i < s.num id k) : AnswersOk (.next (s.setProcedure id k i)) := by
  rcases s.setProcedure_cases id k i with ⟨hout, -⟩ | ⟨-, -, ⟨-, hres⟩ | ⟨-, -, hres⟩ | ⟨-, -, hres⟩⟩
  · omega
  all_goals
    rw [hres]
    exact answersOk_respond ..

/-- A command that fails a range check answers RANGE and does nothing else. -/
theorem exec_of_rangeFails {i : Instr} {s : State} (h : rangeFails s i = true) : exec i s = .next s.rangeError := by
  cases i with
  | nop => cases h
  | emInit id | emTbSignal id | emTick id | itlkReset id | rdLatch id | rdModule id =>
    have hid : ¬ id < s.params.M := by simpa [rangeFails, Instr.module, Instr.slice] using h
    exact if_neg hid
  | emCfgEvent id k i | rdEvent id k i | rdEventCfg id k i =>
    have hout : ¬ (id < s.params.M ∧ i < s.params.E) := by
      simpa [rangeFails, Instr.module, Instr.slice, imp_iff_not_or] using h
    exact (ite_and ..).symm.trans (if_neg hout)
  | wrState id v =>
    have hout : ¬ (id < s.params.M ∧ v < 2 ^ SW) := by
      simpa [rangeFails, Instr.module, Instr.slice, imp_iff_not_or] using h
    exact (ite_and ..).symm.trans (if_neg hout)
  | setHard id i =>
    have hout : s.params.M ≤ id ∨ s.read (.num id .hard) ≤ i := by
      simpa [rangeFails, Instr.module, Instr.slice] using h
    exact congrArg _ (setProcedure_of_range hout)
  | setSoft id i =>
    have hout : s.params.M ≤ id ∨ s.read (.num id .soft) ≤ i := by
      simpa [rangeFails, Instr.module, Instr.slice] using h
    exact congrArg _ (setProcedure_of_range hout)
  | tsConfig j | tsStep j | rdSlice j =>
    have hj : ¬ j < s.params.S := by simpa [rangeFails, Instr.module, Instr.slice] using h
    exact if_neg hj

/-- A command that passes every range check answers OK. -/
theorem exec_answersOk {i : Instr} {s : State} (h : rangeFails s i = false) : AnswersOk (exec i s) := by
  cases i with
  | nop => exact answersOk_respond s 0 0
  | emInit id | emTbSignal id | itlkReset id | rdLatch id | rdModule id =>
    have hid : id < s.params.M := by simpa [rangeFails, Instr.module, Instr.slice] using h
    exact answersOk_of_check hid (answersOk_respond ..)
  | emTick id =>
    have hid : id < s.params.M := by simpa [rangeFails, Instr.module, Instr.slice] using h
    refine answersOk_of_check hid ?_
    split <;> exact answersOk_respond ..
  | emCfgEvent id k i | rdEvent id k i | rdEventCfg id k i =>
    obtain ⟨hid, hi⟩ : id < s.params.M ∧ i < s.params.E := by
      simpa [rangeFails, Instr.module, Instr.slice] using h
    exact answersOk_of_check hid (answersOk_of_check hi (answersOk_respond ..))
  | wrState id v =>
    obtain ⟨hid, hv⟩ : id < s.params.M ∧ v < 2 ^ SW := by
      simpa [rangeFails, Instr.module, Instr.slice] using h
    exact answersOk_of_check hid (answersOk_of_check hv (answersOk_respond ..))
  | setHard id i =>
    obtain ⟨hid, hi⟩ : id < s.params.M ∧ i < s.read (.num id .hard) := by
      simpa [rangeFails, Instr.module, Instr.slice] using h
    exact setProcedure_answersOk hid hi
  | setSoft id i =>
    obtain ⟨hid, hi⟩ : id < s.params.M ∧ i < s.read (.num id .soft) := by
      simpa [rangeFails, Instr.module, Instr.slice] using h
    exact setProcedure_answersOk hid hi
  | tsConfig j | rdSlice j =>
    have hj : j < s.params.S := by simpa [rangeFails, Instr.module, Instr.slice] using h
    exact answersOk_of_check hj (answersOk_respond ..)
  | tsStep j =>
    have hj : j < s.params.S := by simpa [rangeFails, Instr.module, Instr.slice] using h
    refine answersOk_of_check hj ?_
    split <;> exact answersOk_respond ..

/-- Settles O41, by the two sides of the range checks. -/
theorem rangeExactlyWhenAnIndexIsOut : Obligations.RangeExactlyWhenAnIndexIsOut := by
  intro i s
  split
  case isTrue h => exact ⟨_, exec_of_rangeFails h, rangeOnly_rangeError s⟩
  case isFalse h => exact exec_answersOk (Bool.eq_false_iff.2 h)

end Sys2Proof.Machine
end

section
/-! PROOFS. Event-manager configuration: the conversion functions (R70 to R73), and what EM_INIT (R75) and
EM_CFG_EVENT (R77) store, answer and leave alone. -/

namespace Sys2Proof.Machine

/-! ### Conversion functions (R70 to R73) -/

/-- `ticks` is the rounded quotient, ties up: the doubled inequalities of R70. -/
theorem ticks_eq_iff (f us n : Nat) :
    ticks f us = n ↔ 2000000 * n ≤ 2 * (f * us) + 1000000 ∧ 2 * (f * us) + 1000000 < 2000000 * (n + 1) := by
  unfold ticks
  omega

/-- Settles O22, by the bounds of a quotient. -/
theorem ticksRoundsTiesUp : Obligations.TicksRoundsTiesUp :=
  ⟨ticks_eq_iff, fun _ _ _ _ => ticks_mono, ticks_zero⟩

/-- The clamp of R71, case by case. -/
theorem fEff_eq_ite {p : Params} (h : 1 ≤ p.fMax) (freq : Nat) :
    fEff p freq = if freq = 0 then 1 else if p.fMax < freq then p.fMax else freq := by
  unfold fEff clamp
  split_ifs <;> omega

/-- The clamp of R72, case by case: the time is clamped before it is converted. -/
theorem debounceCountOf_eq_ite (p : Params) (f d : Nat) :
    debounceCountOf p f d = if d ≤ p.maxDebounceUs then ticks f d else ticks f p.maxDebounceUs := by
  rw [debounceCountOf, min_def, apply_ite (ticks f)]

/-- R73, case by case: the converted time, unless it is no greater than the debounce count. -/
theorem resetCountOf_eq_ite (p : Params) (f d r : Nat) :
    resetCountOf p f d r =
      if debounceCountOf p f d < ticks f (min r p.maxResetUs) then ticks f (min r p.maxResetUs)
      else debounceCountOf p f d + 1 := by
  rw [resetCountOf, max_comm, max_def]
  rfl

/-- Settles O23, by the cases of the clamps and the bounds that R13(b) gives. -/
theorem configuredCountsAreClamped : Obligations.ConfiguredCountsAreClamped := by
  intro p hp
  obtain ⟨-, -, -, -, -, -, hfMax, -⟩ := (legal_iff p).1 hp
  refine ⟨fEff_eq_ite hfMax, fun f d r h1 h2 => ?_⟩
  obtain ⟨hdc, hlt, hrc, -⟩ := counts_bounds hp h1 h2 d r
  exact ⟨debounceCountOf_eq_ite p f d, hdc, resetCountOf_eq_ite p f d r, hlt, hrc⟩

/-! ### A command that writes one module and responds -/

/-- Writing module `id` and responding leaves alone what the write of the module leaves alone. -/
theorem frame_setMod_respond {written : Reg → Prop} {s : State} {id : Nat} {m : ModuleRegs}
    (h : ∀ r, ¬ written r → (s.setMod id m).read r = s.read r) (st : Status) (a b : Word) :
    Frame written s ((s.setMod id m).respond st a b) :=
  ⟨rfl, rfl, rfl, rfl, rfl, rfl, fun r hr => (read_respond ..).trans (h r hr)⟩

/-- Writing module `id` and responding emits nothing. -/
theorem emits_setMod_respond (s : State) (id : Nat) (m : ModuleRegs) (st : Status) (a b : Word) :
    Emits [] s ((s.setMod id m).respond st a b) := by
  simp [Emits]

/-- The four registers of an event read the fields of its record (R24). -/
theorem reads_of_event {s : State} {id : Nat} {k : Kind} {i : Nat} {e : Event} (h : s.event id k i = e) :
    s.read (.flag id k i) = bitOf e.flag ∧ s.read (.counter id k i) = e.counter.toNat ∧
      s.read (.debounceCount id k i) = e.debounceCount.toNat ∧ s.read (.resetCount id k i) = e.resetCount.toNat := by
  subst h
  exact ⟨rfl, rfl, rfl, rfl⟩

/-! ### EM_INIT (R75) -/

/-- The registers that EM_INIT leaves in a module with registers `m`. -/
def ModuleRegs.init (p : Params) (m : ModuleRegs) (freq nh ns : Nat) : ModuleRegs :=
  { m with
    freq := BitVec.ofNat 32 (fEff p freq)
    num := { hard := BitVec.ofNat 6 (min nh p.E), soft := BitVec.ofNat 6 (min ns p.E) }
    tbFlag := false
    ev := { hard := defaultBank p, soft := defaultBank p } }

theorem decode_of_op_emInit {c : Command} (h : c.op = 0x01) :
    decode c = .ok (.emInit c.id c.opA (field c.w2 0 8) (field c.w2 8 8)) := by
  simp only [decode, h]

theorem exec_emInit {s : State} {id : Nat} (h : id < s.params.M) (freq nh ns : Nat) :
    exec (.emInit id freq nh ns) s = .next ((s.setMod id ((s.mod id).init s.params freq nh ns)).respond .ok
      (BitVec.ofNat 32 (fEff s.params freq))
      (BitVec.ofNat 32 ((min ns s.params.E <<< 8) ||| min nh s.params.E))) :=
  if_pos h

/-- A count in [0, E] fits `num[k]`. -/
theorem toNat_num_of_legal {p : Params} (hp : p.legal = true) (n : Nat) :
    (BitVec.ofNat 6 (min n p.E)).toNat = min n p.E := by
  obtain ⟨-, -, -, hE, -⟩ := (legal_iff p).1 hp
  exact toNat_ofNat_of_lt (by omega)

/-- Every event of an initialised module is the default record. -/
@[simp] theorem ModuleRegs.event_init (p : Params) (m : ModuleRegs) (freq nh ns : Nat) (k : Kind) (i : Nat) :
    (m.init p freq nh ns).event k i = Event.reset := by
  cases k <;> exact defaultBank_getD p i

/-- The two counts of the response, side by side. -/
theorem packedCounts_eq_sum {E : Nat} (hE : E ≤ 32) (nh ns : Nat) :
    (min ns E <<< 8) ||| min nh E = 256 * min ns E + min nh E := by
  rw [← Nat.shiftLeft_add_eq_or_of_lt (by omega), Nat.shiftLeft_eq, Nat.mul_comm]

/-- The registers that EM_INIT writes (R75). -/
def Reg.InitWrites (id : Nat) (r : Reg) : Prop :=
  r = .freq id ∨ (∃ k, r = .num id k) ∨ r = .tbFlag id ∨
    ∃ k i, r = .flag id k i ∨ r = .counter id k i ∨ r = .debounceCount id k i ∨ r = .resetCount id k i

/-- Initialising a module leaves its latches, its state and everything outside it alone. -/
theorem read_setMod_init (s : State) (id freq nh ns : Nat) (r : Reg) (h : ¬ r.InitWrites id) :
    (s.setMod id ((s.mod id).init s.params freq nh ns)).read r = s.read r := by
  refine read_setMod_of s id _ r fun s' hr hmod => ?_
  cases r with
  | latch id' k | opState id' =>
    obtain rfl : id' = id := by simpa [Reg.module] using hr
    simp [State.read, State.latch, State.opState, hmod, ModuleRegs.init]
  | tsN j | tsCounter j => cases hr
  | freq id' | num id' k | tbFlag id' | flag id' k i | counter id' k i | debounceCount id' k i | resetCount id' k i =>
    obtain rfl : id' = id := by simpa [Reg.module] using hr
    simp [Reg.InitWrites] at h

/-- What EM_INIT leaves in each register that it writes (R75). -/
theorem reads_of_mod_init {s t : State} (hs : s.Inv) {id freq nh ns : Nat} (hfreq : freq < 2 ^ 32)
    (ht : t.mod id = (s.mod id).init s.params freq nh ns) :
    t.read (.freq id) = fEff s.params freq ∧ t.read (.num id .hard) = min nh s.params.E ∧
      t.read (.num id .soft) = min ns s.params.E ∧ t.read (.tbFlag id) = 0 ∧
      ∀ k i, t.read (.flag id k i) = 0 ∧ t.read (.counter id k i) = 0 ∧
        t.read (.debounceCount id k i) = 0 ∧ t.read (.resetCount id k i) = 1 := by
  refine ⟨?_, ?_, ?_, ?_, fun k i => ?_⟩
  · simp only [State.read, ht]
    exact toNat_ofNat_of_lt (fEff_lt hfreq)
  · simp only [State.read, State.num, ht]
    exact toNat_num_of_legal hs.1 nh
  · simp only [State.read, State.num, ht]
    exact toNat_num_of_legal hs.1 ns
  · simp only [State.read, ht]
    rfl
  · exact reads_of_event (e := Event.reset) (by rw [event_of_mod, ht, ModuleRegs.event_init])

/-- Settles O26: the module written is the initialised one, whose registers are read one by one. -/
theorem emInitInitialisesTheModule : Obligations.EmInitInitialisesTheModule := by
  refine ⟨fun c h => decode_of_op_emInit h, fun s id freq nh ns hs hfreq hid => ?_, fun s id freq nh ns hid => ?_⟩
  · have hmod := State.mod_setMod_same (hs.mod_lt hid) ((s.mod id).init s.params freq nh ns)
    obtain ⟨hf, hnh, hns, htb, hev⟩ := reads_of_mod_init hs hfreq hmod
    obtain ⟨-, -, -, hE, -⟩ := (legal_iff s.params).1 hs.1
    rw [exec_emInit hid, packedCounts_eq_sum hE]
    exact ⟨_, rfl, hf, hnh, hns, htb, fun k i _ => hev k i, rfl, emits_setMod_respond ..,
      frame_setMod_respond (read_setMod_init s id freq nh ns) ..⟩
  · exact ⟨_, exec_of_rangeFails (by simp [rangeFails, Instr.module, hid]), rangeOnly_rangeError s⟩

/-! ### EM_CFG_EVENT (R77) -/

/-- The record that EM_CFG_EVENT stores for an event of a module with time-base frequency `f`. -/
def Event.configured (p : Params) (f dUs rUs : Nat) : Event :=
  { flag := false
    counter := 0
    debounceCount := BitVec.ofNat CW (debounceCountOf p f dUs)
    resetCount := BitVec.ofNat CW (resetCountOf p f dUs rUs) }

/-- The counts stored are the counts converted: they fit their registers. -/
theorem Event.configured_counts {p : Params} (hp : p.legal = true) {f : Nat} (h1 : 1 ≤ f) (h2 : f ≤ p.fMax)
    (dUs rUs : Nat) :
    (Event.configured p f dUs rUs).debounceCount.toNat = debounceCountOf p f dUs ∧
      (Event.configured p f dUs rUs).resetCount.toNat = resetCountOf p f dUs rUs := by
  obtain ⟨-, hlt, hrc, hmax⟩ := counts_bounds hp h1 h2 dUs rUs
  have hrc32 := hrc.trans_lt hmax
  exact ⟨toNat_ofNat_of_lt (hlt.trans hrc32), toNat_ofNat_of_lt hrc32⟩

theorem decode_of_op_emCfgEvent {c : Command} (h : c.op = 0x02) :
    decode c = .ok (.emCfgEvent c.id c.kind c.idx c.opA c.opB) := by
  simp only [decode, h]

theorem exec_emCfgEvent {s : State} {id i : Nat} (hid : id < s.params.M) (hi : i < s.params.E) (k : Kind)
    (dUs rUs : Nat) :
    exec (.emCfgEvent id k i dUs rUs) s =
      .next ((s.setEvent id k i (Event.configured s.params (s.read (.freq id)) dUs rUs)).respond .ok
        (Event.configured s.params (s.read (.freq id)) dUs rUs).debounceCount
        (Event.configured s.params (s.read (.freq id)) dUs rUs).resetCount) :=
  (if_pos hid).trans (if_pos hi)

/-- Settles O27: the record written reads back, and its counts fit their registers. -/
theorem emCfgEventConfiguresTheEvent : Obligations.EmCfgEventConfiguresTheEvent := by
  refine ⟨fun c h => decode_of_op_emCfgEvent h, fun s id k i d r hs hid hi => ?_, fun s id k i d r h => ?_⟩
  · have hev := event_setEvent_same (hs.mod_lt hid) ((hs.bank_length hid k).symm ▸ hi)
      (Event.configured s.params (s.read (.freq id)) d r)
    obtain ⟨hflag, hcounter, hdebounce, hreset⟩ := reads_of_event hev
    obtain ⟨h1, h2, -⟩ := hs.mod_ok hid
    obtain ⟨hdc, hrc⟩ := Event.configured_counts (f := s.read (.freq id)) hs.1 h1 h2 d r
    refine ⟨_, exec_emCfgEvent hid hi k d r, ?_⟩
    simp only [read_respond, hflag, hcounter, hdebounce, hreset, hdc, hrc]
    refine ⟨rfl, rfl, rfl, rfl, rfl, emits_setMod_respond .., frame_setMod_respond (fun x hx => ?_) ..⟩
    obtain ⟨hf, hc, hd, hr⟩ := by simpa only [not_or] using hx
    exact read_setEvent_ne s id k i _ hf hc hd hr
  · have hrange : rangeFails s (.emCfgEvent id k i d r) = true := by
      simpa [rangeFails, Instr.module, Instr.slice] using h
    exact ⟨_, exec_of_rangeFails hrange, rangeOnly_rangeError s⟩

end Sys2Proof.Machine
end

section
/-! PROOFS. The debounce state machine: what EM_TB_SIGNAL (R80), EM_TICK (R82 to R84) and the set procedure of SET_HARD
and SET_SOFT (R86 to R89) store, answer, emit and leave alone. -/

namespace Sys2Proof.Machine

/-! ### One-bit registers -/

@[simp] theorem bitOf_eq_one {b : Bool} : bitOf b = 1 ↔ b = true := by cases b <;> simp [bitOf]

@[simp] theorem bitOf_eq_zero {b : Bool} : bitOf b = 0 ↔ b = false := by cases b <;> simp [bitOf]

/-! ### EM_TB_SIGNAL (R80) -/

theorem decode_of_op_emTbSignal {c : Command} (h : c.op = 0x03) : decode c = .ok (.emTbSignal c.id) := by
  simp only [decode, h]

theorem exec_emTbSignal {s : State} {id : Nat} (h : id < s.params.M) :
    exec (.emTbSignal id) s = .next ((s.setMod id { s.mod id with tbFlag := true }).respond .ok
      (BitVec.ofNat 32 (s.read (.tbFlag id))) 0) :=
  if_pos h

/-- Writing `tb_flag` leaves every other register alone. -/
theorem read_setMod_tbFlag (s : State) (id : Nat) (b : Bool) (r : Reg) (h : r ≠ .tbFlag id) :
    (s.setMod id { s.mod id with tbFlag := b }).read r = s.read r := by
  refine read_setMod_of s id _ r fun s' hr hmod => ?_
  cases r with
  | tbFlag id' =>
    obtain rfl : id' = id := by simpa [Reg.module] using hr
    exact absurd rfl h
  | tsN j | tsCounter j => cases hr
  | freq id' | num id' k | latch id' k | opState id' | flag id' k i | counter id' k i | debounceCount id' k i
  | resetCount id' k i =>
    obtain rfl : id' = id := by simpa [Reg.module] using hr
    simp [State.read, State.num, State.latch, State.opState, event_of_mod, ModuleRegs.event, hmod]

/-- Settles O28: the command writes `tb_flag` alone and answers the value it found there. -/
theorem emTbSignalSetsTheFlag : Obligations.EmTbSignalSetsTheFlag := by
  refine ⟨fun c h => decode_of_op_emTbSignal h, fun s id hs hid => ?_, fun s id hid => ?_⟩
  · have hmod := State.mod_setMod_same (hs.mod_lt hid) { s.mod id with tbFlag := true }
    exact ⟨_, exec_emTbSignal hid, bitOf_eq_one.2 (congrArg ModuleRegs.tbFlag hmod), rfl, emits_setMod_respond ..,
      frame_setMod_respond (read_setMod_tbFlag s id true) ..⟩
  · exact ⟨_, exec_of_rangeFails (by simp [rangeFails, Instr.module, hid]), rangeOnly_rangeError s⟩

/-! ### A consumed tick on one event (R82) -/

theorem Event.tick_of_idle {e : Event} (hf : ¬ e.flag = true) : e.tick = e := if_neg hf

/-- Below its reset count a flagged event stays flagged and counts one. -/
theorem Event.tick_of_lt {e : Event} (hf : e.flag = true) (h : e.counter.toNat + 1 < e.resetCount.toNat) :
    e.tick.flag = true ∧ e.tick.counter.toNat = e.counter.toNat + 1 := by
  rcases e.tick_cases with ⟨hidle, -⟩ | ⟨-, hle, -⟩ | ⟨-, -, he⟩
  · simp [hf] at hidle
  · omega
  · rw [he]
    exact ⟨hf, Event.counter_succ h⟩

/-- At its reset count a flagged event clears. -/
theorem Event.tick_of_le {e : Event} (hf : e.flag = true) (h : e.resetCount.toNat ≤ e.counter.toNat + 1) :
    e.tick = e.cleared := by
  rcases e.tick_cases with ⟨hidle, -⟩ | ⟨-, -, he⟩ | ⟨-, hlt, -⟩
  · simp [hf] at hidle
  · exact he
  · omega

/-- A tick writes neither configured count. -/
theorem Event.tick_counts (e : Event) :
    e.tick.debounceCount = e.debounceCount ∧ e.tick.resetCount = e.resetCount := by
  rcases e.tick_cases with ⟨-, he⟩ | ⟨-, -, he⟩ | ⟨-, -, he⟩ <;> rw [he] <;> exact ⟨rfl, rfl⟩

/-! ### EM_TICK (R82 to R84) -/

/-- The registers that a consumed tick leaves in a module with registers `m`. -/
def ModuleRegs.ticked (m : ModuleRegs) : ModuleRegs :=
  { m with
    tbFlag := false
    ev := { hard := tickBank m.num.hard.toNat m.ev.hard, soft := tickBank m.num.soft.toNat m.ev.soft } }

theorem decode_of_op_emTick {c : Command} (h : c.op = 0x04) : decode c = .ok (.emTick c.id) := by
  simp only [decode, h]

theorem exec_emTick_of_set {s : State} {id : Nat} (hid : id < s.params.M) (htb : s.read (.tbFlag id) = 1) :
    exec (.emTick id) s = .next ((s.setMod id (s.mod id).ticked).respond .ok 1
      (BitVec.ofNat 32 (healedIn (s.num id .hard) ((s.mod id).ev.get .hard) +
        healedIn (s.num id .soft) ((s.mod id).ev.get .soft)))) :=
  (if_pos hid).trans (if_pos (bitOf_eq_one.1 htb))

theorem exec_emTick_of_clear {s : State} {id : Nat} (hid : id < s.params.M) (htb : s.read (.tbFlag id) = 0) :
    exec (.emTick id) s = .next (s.respond .ok 0 0) :=
  (if_pos hid).trans (if_neg (by simpa [State.read] using htb))

/-- One event of a ticked module: visited if it is configured. -/
theorem event_of_mod_ticked {s t : State} {id : Nat} (ht : t.mod id = (s.mod id).ticked) (k : Kind) (i : Nat) :
    t.event id k i = if i < s.read (.num id k) then (s.event id k i).tick else s.event id k i := by
  rw [event_of_mod, ht]
  cases k <;> exact getD_tickBank i

/-- The registers that a consumed tick writes: `tb_flag`, and flag and counter of the flagged configured events. -/
def Reg.TickWrites (s : State) (id : Nat) (r : Reg) : Prop :=
  r = .tbFlag id ∨
    ∃ k i, i < s.read (.num id k) ∧ s.read (.flag id k i) = 1 ∧ (r = .flag id k i ∨ r = .counter id k i)

/-- An event that is not configured or not flagged is left alone (R82). -/
theorem event_of_mod_ticked_same {s t : State} {id : Nat} (ht : t.mod id = (s.mod id).ticked) {k : Kind} {i : Nat}
    (h : ¬ (i < s.read (.num id k) ∧ s.read (.flag id k i) = 1)) : t.event id k i = s.event id k i := by
  rw [event_of_mod_ticked ht]
  split
  case isTrue hi => exact Event.tick_of_idle fun hf => h ⟨hi, bitOf_eq_one.2 hf⟩
  case isFalse => rfl

/-- A consumed tick writes no configured count. -/
theorem counts_of_mod_ticked {s t : State} {id : Nat} (ht : t.mod id = (s.mod id).ticked) (k : Kind) (i : Nat) :
    (t.event id k i).debounceCount = (s.event id k i).debounceCount ∧
      (t.event id k i).resetCount = (s.event id k i).resetCount := by
  rw [event_of_mod_ticked ht]
  split
  case isTrue => exact Event.tick_counts _
  case isFalse => exact ⟨rfl, rfl⟩

/-- A consumed tick writes no register outside `TickWrites`. -/
theorem read_setMod_ticked (s : State) (id : Nat) (r : Reg) (h : ¬ r.TickWrites s id) :
    (s.setMod id (s.mod id).ticked).read r = s.read r := by
  refine read_setMod_of s id _ r fun s' hr hmod => ?_
  cases r with
  | tsN j | tsCounter j => cases hr
  | tbFlag id' =>
    obtain rfl : id' = id := by simpa [Reg.module] using hr
    exact absurd (.inl rfl) h
  | freq id' | num id' k | latch id' k | opState id' =>
    obtain rfl : id' = id := by simpa [Reg.module] using hr
    simp [State.read, State.num, State.latch, State.opState, hmod, ModuleRegs.ticked]
  | flag id' k i =>
    obtain rfl : id' = id := by simpa [Reg.module] using hr
    have hev := event_of_mod_ticked_same hmod fun hw => h (.inr ⟨k, i, hw.1, hw.2, .inl rfl⟩)
    exact (reads_of_event hev).1
  | counter id' k i =>
    obtain rfl : id' = id := by simpa [Reg.module] using hr
    have hev := event_of_mod_ticked_same hmod fun hw => h (.inr ⟨k, i, hw.1, hw.2, .inr rfl⟩)
    exact (reads_of_event hev).2.1
  | debounceCount id' k i | resetCount id' k i =>
    obtain rfl : id' = id := by simpa [Reg.module] using hr
    simp only [State.read, counts_of_mod_ticked hmod]

/-- What a consumed tick leaves in a flagged configured event: one more, or cleared (R82). -/
theorem reads_of_mod_ticked {s t : State} {id : Nat} (ht : t.mod id = (s.mod id).ticked) {k : Kind} {i : Nat}
    (hi : i < s.read (.num id k)) (hf : s.read (.flag id k i) = 1) :
    (s.read (.counter id k i) + 1 < s.read (.resetCount id k i) →
      t.read (.flag id k i) = 1 ∧ t.read (.counter id k i) = s.read (.counter id k i) + 1) ∧
    (s.read (.resetCount id k i) ≤ s.read (.counter id k i) + 1 →
      t.read (.flag id k i) = 0 ∧ t.read (.counter id k i) = 0) := by
  obtain ⟨hflag, hcounter, -⟩ := reads_of_event ((event_of_mod_ticked ht k i).trans (if_pos hi))
  have hset : (s.event id k i).flag = true := bitOf_eq_one.1 hf
  rw [hflag, hcounter]
  constructor
  · intro hlt
    obtain ⟨hstay, hcount⟩ := Event.tick_of_lt hset hlt
    exact ⟨bitOf_eq_one.2 hstay, hcount⟩
  · intro hle
    rw [Event.tick_of_le hset hle]
    exact ⟨rfl, rfl⟩

/-- The events visited are those at the indices below `n`. -/
theorem healedIn_eq_countP_range {n : Nat} {bank : List Event} (h : n ≤ bank.length) :
    healedIn n bank = (List.range n).countP fun i => (bank.getD i Event.reset).heals := by
  have htake : bank.take n = (List.range n).map fun i => bank.getD i Event.reset :=
    List.ext_getElem (by simp [h]) fun i h1 h2 => by
      have hi : i < bank.length := by simp at h1; omega
      simp [List.getD, hi]
  rw [healedIn, htake, List.countP_map]
  rfl

/-- The healed events of one kind, counted by their registers (R82). -/
theorem healedIn_eq_countP_reads {s : State} (hs : s.Inv) {id : Nat} (hid : id < s.params.M) (k : Kind) :
    healedIn (s.num id k) ((s.mod id).ev.get k) =
      (List.range (s.read (.num id k))).countP fun i =>
        decide (s.read (.flag id k i) = 1 ∧ s.read (.resetCount id k i) ≤ s.read (.counter id k i) + 1) := by
  rw [healedIn_eq_countP_range ((hs.num_le hid k).trans_eq (hs.bank_length hid k).symm)]
  congr 1
  funext i
  simp [Event.heals, State.read, State.event, ModuleRegs.event]

/-- At most `E` events of one kind heal. -/
theorem healedIn_le {s : State} (hs : s.Inv) {id : Nat} (hid : id < s.params.M) (k : Kind) :
    healedIn (s.num id k) ((s.mod id).ev.get k) ≤ s.params.E :=
  calc healedIn (s.num id k) ((s.mod id).ev.get k)
    _ ≤ (((s.mod id).ev.get k).take (s.num id k)).length := List.countP_le_length
    _ ≤ s.num id k := List.length_take_le ..
    _ ≤ s.params.E := hs.num_le hid k

/-- Settles O29: a consumed tick writes the ticked module, whose events are read one by one and counted by index. -/
theorem emTickAdvancesFlaggedEvents : Obligations.EmTickAdvancesFlaggedEvents := by
  refine ⟨fun c h => decode_of_op_emTick h, fun s id hs hid htb => ?_, fun s id hid htb => ?_, fun s id hid => ?_⟩
  · have hmod := State.mod_setMod_same (hs.mod_lt hid) (s.mod id).ticked
    have hreads {k i} := reads_of_mod_ticked (k := k) (i := i) hmod
    have hhard := healedIn_le hs hid .hard
    have hsoft := healedIn_le hs hid .soft
    refine ⟨_, exec_emTick_of_set hid htb, bitOf_eq_zero.2 (congrArg ModuleRegs.tbFlag hmod),
      fun k i hi hf => (hreads hi hf).1, fun k i hi hf => (hreads hi hf).2, ⟨_, rfl, by omega, ?_⟩,
      emits_setMod_respond .., frame_setMod_respond (read_setMod_ticked s id) ..⟩
    rw [healedIn_eq_countP_reads hs hid, healedIn_eq_countP_reads hs hid]
  · exact ⟨_, exec_emTick_of_clear hid htb, respond_ok_only s 0 0⟩
  · exact ⟨_, exec_of_rangeFails (by simp [rangeFails, Instr.module, hid]), rangeOnly_rangeError s⟩

/-! ### The set procedure (R86), one equation per outcome -/

/-- Below the threshold (outcome 0) the event is flagged. -/
theorem setProcedure_of_lt {s : State} {id : Nat} {k : Kind} {i : Nat} (hid : id < s.params.M)
    (hi : i < s.read (.num id k)) (h : s.read (.counter id k i) < s.read (.debounceCount id k i)) :
    s.setProcedure id k i =
      (s.setEvent id k i { s.event id k i with flag := true }).respond .ok 0 (s.event id k i).counter := by
  have hmet : (s.event id k i).thresholdMet = false := decide_eq_false (Nat.not_le.2 h)
  exact (if_pos hid).trans ((if_pos hi).trans (if_neg (by simp [hmet])))

/-- At the threshold with the bit clear (outcome 1) the event latches and clears. -/
theorem setProcedure_of_le_of_clear {s : State} {id : Nat} {k : Kind} {i : Nat} (hid : id < s.params.M)
    (hi : i < s.read (.num id k)) (h : s.read (.debounceCount id k i) ≤ s.read (.counter id k i))
    (hl : s.latchBit id k i = false) :
    s.setProcedure id k i =
      ((s.takeLatch id k i).setEvent id k i (s.event id k i).cleared).respond .ok 1 (s.event id k i).counter := by
  have hmet : (s.event id k i).thresholdMet = true := decide_eq_true h
  exact (if_pos hid).trans ((if_pos hi).trans ((if_pos hmet).trans (if_neg (by simp [hl]))))

/-- At the threshold with the bit set (outcome 2) the event clears. -/
theorem setProcedure_of_le_of_set {s : State} {id : Nat} {k : Kind} {i : Nat} (hid : id < s.params.M)
    (hi : i < s.read (.num id k)) (h : s.read (.debounceCount id k i) ≤ s.read (.counter id k i))
    (hl : s.latchBit id k i = true) :
    s.setProcedure id k i =
      (s.setEvent id k i (s.event id k i).cleared).respond .ok 2 (s.event id k i).counter := by
  have hmet : (s.event id k i).thresholdMet = true := decide_eq_true h
  exact (if_pos hid).trans ((if_pos hi).trans ((if_pos hmet).trans (if_pos hl)))

/-! ### What the set procedure leaves alone -/

@[simp] theorem read_setEvent_opState (s : State) (id : Nat) (k : Kind) (i : Nat) (e : Event) (id' : Nat) :
    (s.setEvent id k i e).read (.opState id') = s.read (.opState id') :=
  read_setEvent_ne s id k i e nofun nofun nofun nofun

@[simp] theorem read_setEvent_latch (s : State) (id : Nat) (k : Kind) (i : Nat) (e : Event) (id' : Nat) (k' : Kind) :
    (s.setEvent id k i e).read (.latch id' k') = s.read (.latch id' k') :=
  read_setEvent_ne s id k i e nofun nofun nofun nofun

/-- Writing a record with the same configured counts leaves every register but flag and counter alone. -/
theorem read_setEvent_of_counts {s : State} {id : Nat} {k : Kind} {i : Nat} {e : Event}
    (hev : (s.setEvent id k i e).event id k i = e) (hd : e.debounceCount = (s.event id k i).debounceCount)
    (hr : e.resetCount = (s.event id k i).resetCount) {r : Reg} (h1 : r ≠ .flag id k i) (h2 : r ≠ .counter id k i) :
    (s.setEvent id k i e).read r = s.read r := by
  by_cases h3 : r = .debounceCount id k i
  · subst h3
    exact congrArg BitVec.toNat ((congrArg Event.debounceCount hev).trans hd)
  by_cases h4 : r = .resetCount id k i
  · subst h4
    exact congrArg BitVec.toNat ((congrArg Event.resetCount hev).trans hr)
  exact read_setEvent_ne s id k i e h1 h2 h3 h4

/-- A new latch writes the state and the latch register alone (R129). -/
theorem read_takeLatch_ne (s : State) (id : Nat) (k : Kind) (i : Nat) {r : Reg} (h1 : r ≠ .opState id)
    (h2 : r ≠ .latch id k) : (s.takeLatch id k i).read r = s.read r := by
  refine (read_setMod_of (s.emitTurnOff id) id _ r fun s' hr hmod => ?_).trans (read_emitTurnOff s id r)
  cases r with
  | tsN j | tsCounter j => cases hr
  | opState id' =>
    obtain rfl : id' = id := by simpa [Reg.module] using hr
    exact absurd rfl h1
  | latch id' k' =>
    obtain rfl : id' = id := by simpa [Reg.module] using hr
    have hk : k' ≠ k := by simpa using h2
    simp [State.read, State.latch, hmod, ByKind.get_set_ne _ _ hk]
  | freq id' | num id' k' | tbFlag id' | flag id' k' i' | counter id' k' i' | debounceCount id' k' i'
  | resetCount id' k' i' =>
    obtain rfl : id' = id := by simpa [Reg.module] using hr
    simp [State.read, State.num, event_of_mod, ModuleRegs.event, hmod]

/-- Setting a clear latch bit adds its weight (R28). -/
theorem toNat_or_one_shl {l : BitVec 32} {i : Nat} (hi : i < 32) (hl : l.getLsbD i = false) :
    (l ||| (1#32 <<< i)).toNat = l.toNat + 2 ^ i := by
  have hand : l &&& BitVec.twoPow 32 i = 0 := by simp [BitVec.and_twoPow, hl]
  rw [← BitVec.twoPow_eq, ← BitVec.add_eq_or_of_and_eq_zero _ _ hand, BitVec.toNat_add_of_and_eq_zero hand,
    BitVec.toNat_twoPow_of_lt hi]

/-- What a new latch leaves in the state and the latch register, if the bit was clear (R86, R129). -/
theorem reads_takeLatch {s : State} {id : Nat} (hid : id < s.modules.length) {k : Kind} {i : Nat} (hi : i < 32)
    (hl : s.latchBit id k i = false) :
    (s.takeLatch id k i).read (.opState id) = 1 ∧
      (s.takeLatch id k i).read (.latch id k) = s.read (.latch id k) + 2 ^ i := by
  simp only [State.read, State.opState, State.latch, mod_takeLatch hid, ByKind.get_set_same]
  exact ⟨rfl, toNat_or_one_shl hi hl⟩

/-- A new latch leaves the events alone. -/
theorem event_takeLatch {s : State} {id : Nat} (hid : id < s.modules.length) (k : Kind) (i : Nat) :
    (s.takeLatch id k i).event id k i = s.event id k i := by
  rw [event_of_mod, mod_takeLatch hid]
  rfl

/-! ### SET_HARD and SET_SOFT (R86 to R89) -/

section
variable {s : State} {id : Nat} {k : Kind} {i : Nat} (hs : s.Inv) (hid : id < s.params.M) (hi : i < s.read (.num id k))
include hs hid hi

/-- A configured event has a record. -/
theorem lt_bank_length_of_configured : i < ((s.mod id).ev.get k).length :=
  (hi.trans_le (hs.num_le hid k)).trans_eq (hs.bank_length hid k).symm

/-- A configured event has a latch bit. -/
theorem lt_32_of_configured : i < 32 := by
  obtain ⟨-, -, -, hE, -⟩ := (legal_iff s.params).1 hs.1
  exact (hi.trans_le (hs.num_le hid k)).trans_le hE

/-- Below the threshold: outcome 0, and the flag is set (R86). -/
theorem setProcedure_pends (h : s.read (.counter id k i) < s.read (.debounceCount id k i)) :
    (s.setProcedure id k i).read (.flag id k i) = 1 ∧
      Responds .ok 0 (s.read (.counter id k i)) (s.setProcedure id k i) ∧ Emits [] s (s.setProcedure id k i) ∧
      Frame (fun r => r = .flag id k i) s (s.setProcedure id k i) := by
  have hev := event_setEvent_same (hs.mod_lt hid) (lt_bank_length_of_configured hs hid hi)
    { s.event id k i with flag := true }
  obtain ⟨hflag, hcounter, -⟩ := reads_of_event hev
  rw [setProcedure_of_lt hid hi h]
  refine ⟨hflag, by simp [Responds, State.read], emits_setMod_respond .., frame_setMod_respond (fun r hr => ?_) ..⟩
  by_cases hc : r = .counter id k i
  · exact hc ▸ hcounter
  · exact read_setEvent_of_counts hev rfl rfl hr hc

/-- At the threshold with the bit clear: outcome 1, and the event latches and clears (R86, R89). -/
theorem setProcedure_latches (h : s.read (.debounceCount id k i) ≤ s.read (.counter id k i))
    (hl : s.latchBit id k i = false) :
    (s.setProcedure id k i).read (.flag id k i) = 0 ∧ (s.setProcedure id k i).read (.counter id k i) = 0 ∧
      (s.setProcedure id k i).read (.opState id) = 1 ∧
      (s.setProcedure id k i).read (.latch id k) = s.read (.latch id k) + 2 ^ i ∧
      Responds .ok 1 (s.read (.counter id k i)) (s.setProcedure id k i) ∧ Emits [id] s (s.setProcedure id k i) ∧
      Frame (fun r => r = .flag id k i ∨ r = .counter id k i ∨ r = .opState id ∨ r = .latch id k) s
        (s.setProcedure id k i) := by
  have hmod := hs.mod_lt hid
  have hold := event_takeLatch hmod k i
  have hbank : i < (((s.takeLatch id k i).mod id).ev.get k).length := by
    rw [mod_takeLatch hmod]
    exact lt_bank_length_of_configured hs hid hi
  have hev := event_setEvent_same (s := s.takeLatch id k i) (by simpa using hmod) hbank (s.event id k i).cleared
  obtain ⟨hflag, hcounter, -⟩ := reads_of_event hev
  obtain ⟨hstate, hlatch⟩ := reads_takeLatch hmod (lt_32_of_configured hs hid hi) hl
  rw [setProcedure_of_le_of_clear hid hi h hl]
  refine ⟨hflag, hcounter, by simp [hstate], by simp [hlatch], by simp [Responds, State.read], rfl,
    rfl, rfl, rfl, rfl, rfl, rfl, fun r hr => ?_⟩
  obtain ⟨hf, hc, hst, hla⟩ := by simpa only [not_or] using hr
  rw [read_respond, read_setEvent_of_counts hev (by rw [hold]; rfl) (by rw [hold]; rfl) hf hc,
    read_takeLatch_ne s id k i hst hla]

/-- At the threshold with the bit set: outcome 2, and the event clears (R86). -/
theorem setProcedure_clears (h : s.read (.debounceCount id k i) ≤ s.read (.counter id k i))
    (hl : s.latchBit id k i = true) :
    (s.setProcedure id k i).read (.flag id k i) = 0 ∧ (s.setProcedure id k i).read (.counter id k i) = 0 ∧
      Responds .ok 2 (s.read (.counter id k i)) (s.setProcedure id k i) ∧ Emits [] s (s.setProcedure id k i) ∧
      Frame (fun r => r = .flag id k i ∨ r = .counter id k i) s (s.setProcedure id k i) := by
  have hev := event_setEvent_same (hs.mod_lt hid) (lt_bank_length_of_configured hs hid hi) (s.event id k i).cleared
  obtain ⟨hflag, hcounter, -⟩ := reads_of_event hev
  rw [setProcedure_of_le_of_set hid hi h hl]
  refine ⟨hflag, hcounter, by simp [Responds, State.read], emits_setMod_respond ..,
    frame_setMod_respond (fun r hr => ?_) ..⟩
  obtain ⟨hf, hc⟩ := not_or.1 hr
  exact read_setEvent_of_counts hev rfl rfl hf hc

end

/-- A command that runs the set procedure of kind `k` follows R86 in every outcome. -/
theorem followsSetProcedure {set : Nat → Nat → Instr} {k : Kind}
    (hset : ∀ id i s, exec (set id i) s = .next (s.setProcedure id k i)) :
    Sys2Proof.Claims.FollowsSetProcedure set k :=
  ⟨fun s id i hs hid hi =>
    ⟨fun h => ⟨_, hset id i s, setProcedure_pends hs hid hi h⟩,
      fun h hl => ⟨_, hset id i s, setProcedure_latches hs hid hi h hl⟩,
      fun h hl => ⟨_, hset id i s, setProcedure_clears hs hid hi h hl⟩⟩,
    fun s id i h => ⟨_, (hset id i s).trans (congrArg _ (setProcedure_of_range h)), rangeOnly_rangeError s⟩⟩

/-- OP 0x05 is SET of the kind that `K` names (R57). -/
theorem decode_of_op_set {c : Command} (h : c.op = 0x05) : decode c = .ok (setCommand c.id c.kind c.idx) := by
  simp only [decode, h]
  cases c.kind <;> rfl

theorem kind_eq_hard {c : Command} (h : field c.w0 19 1 = 0) : c.kind = .hard := if_pos h

theorem kind_eq_soft {c : Command} (h : field c.w0 19 1 = 1) : c.kind = .soft := if_neg (by omega)

/-- Settles O30: SET_HARD is SET by kind with the hard record and latch. -/
theorem setHardDebouncesAndLatches : Obligations.SetHardDebouncesAndLatches := by
  refine ⟨fun c h hk => ?_, followsSetProcedure fun id i s => exec_setCommand id .hard i s⟩
  have hdecode := decode_of_op_set h
  rwa [kind_eq_hard hk] at hdecode

/-- Settles O31: SET_SOFT is SET by kind with the soft record and latch. -/
theorem setSoftDebouncesAndLatches : Obligations.SetSoftDebouncesAndLatches := by
  refine ⟨fun c h hk => ?_, followsSetProcedure fun id i s => exec_setCommand id .soft i s⟩
  have hdecode := decode_of_op_set h
  rwa [kind_eq_soft hk] at hdecode

end Sys2Proof.Machine
end

section
/-! PROOFS. Latch reset and module state: what ITLK_RESET (R95, R96) and WR_STATE (R97, R98) store, answer and leave
alone. -/

namespace Sys2Proof.Machine

/-! ### Writing the latch registers and the state -/

/-- Writing the latch registers and the state of a module leaves alone every register but the state and the latch
registers that change. -/
theorem read_setMod_latch_opState (s : State) (id : Nat) (l : ByKind (BitVec 32)) (v : BitVec SW) {r : Reg}
    (hv : r ≠ .opState id) (hl : ∀ k, r = .latch id k → l.get k = s.latch id k) :
    (s.setMod id { s.mod id with latch := l, opState := v }).read r = s.read r := by
  refine read_setMod_of s id _ r fun s' hr hmod => ?_
  cases r with
  | tsN j | tsCounter j => cases hr
  | opState id' =>
    obtain rfl : id' = id := by simpa [Reg.module] using hr
    exact absurd rfl hv
  | latch id' k =>
    obtain rfl : id' = id := by simpa [Reg.module] using hr
    simp [State.read, State.latch, hmod, hl k rfl]
  | freq id' | num id' k | tbFlag id' | flag id' k i | counter id' k i | debounceCount id' k i | resetCount id' k i =>
    obtain rfl : id' = id := by simpa [Reg.module] using hr
    simp [State.read, State.num, event_of_mod, ModuleRegs.event, hmod]

/-! ### ITLK_RESET (R95, R96) -/

/-- A one-bit field is the bit. -/
theorem field_one_beq_one (w : Word) (lo : Nat) : (field w lo 1 == 1) = w.getLsbD lo := by
  simp [field, BitVec.getLsbD, Nat.testBit]

theorem decode_of_op_itlkReset {c : Command} (h : c.op = 0x06) :
    decode c = .ok (.itlkReset c.id (c.w1.getLsbD 0)) := by
  simp only [decode, h, field_one_beq_one]

theorem exec_itlkReset {s : State} {id : Nat} (h : id < s.params.M) (safe : Bool) :
    exec (.itlkReset id safe) s =
      .next ((s.leaveLatch id safe).respond .ok (s.latch id .hard) (s.latch id .soft)) :=
  if_pos h

/-- Both latch registers are cleared, whether or not the state leaves INTERLOCK (R95). -/
theorem read_leaveLatch_latch {s : State} {id : Nat} (hid : id < s.modules.length) (safe : Bool) (k : Kind) :
    (s.leaveLatch id safe).read (.latch id k) = 0 := by
  simp only [State.read, State.latch, mod_leaveLatch hid]
  cases k <;> rfl

/-- The state goes from INTERLOCK to OFF if verified safe, and stays as it is otherwise (R95). -/
theorem read_leaveLatch_opState {s : State} {id : Nat} (hid : id < s.modules.length) (safe : Bool) :
    (s.leaveLatch id safe).read (.opState id) =
      if safe = true ∧ s.read (.opState id) = 1 then 0 else s.read (.opState id) := by
  have hcode : (safe && (s.mod id).opState == stateInterlock) = true ↔ safe = true ∧ s.read (.opState id) = 1 := by
    simp [State.read, State.opState, stateInterlock, ← BitVec.toNat_inj]
  simp only [State.read, State.opState, mod_leaveLatch hid, apply_ite BitVec.toNat]
  exact if_congr hcode rfl rfl

/-- Settles O32: the command is the way back from a latch, and answers the masks that it finds. -/
theorem itlkResetClearsTheLatches : Obligations.ItlkResetClearsTheLatches := by
  refine ⟨fun c h => decode_of_op_itlkReset h, fun s id safe hs hid => ?_, fun s id safe hid => ?_⟩
  · have hlen := hs.mod_lt hid
    refine ⟨_, exec_itlkReset hid safe, read_leaveLatch_latch hlen safe .hard, read_leaveLatch_latch hlen safe .soft,
      read_leaveLatch_opState hlen safe, by simp [Responds, State.read], emits_setMod_respond ..,
      frame_setMod_respond (fun r hr => ?_) ..⟩
    obtain ⟨hhard, hsoft, hstate⟩ := by simpa only [not_or] using hr
    refine read_setMod_latch_opState s id _ _ hstate fun k hk => ?_
    cases k with
    | hard => exact absurd hk hhard
    | soft => exact absurd hk hsoft
  · exact ⟨_, exec_of_rangeFails (by simp [rangeFails, Instr.module, hid]), rangeOnly_rangeError s⟩

/-! ### WR_STATE (R97, R98) -/

theorem decode_of_op_wrState {c : Command} (h : c.op = 0x07) : decode c = .ok (.wrState c.id c.opA) := by
  simp only [decode, h]

theorem exec_wrState {s : State} {id value : Nat} (hid : id < s.params.M) (hv : value < 2 ^ SW) :
    exec (.wrState id value) s =
      .next ((s.setOpState id (BitVec.ofNat SW value)).respond .ok ((s.opState id).setWidth 32) 0) :=
  (if_pos hid).trans (if_pos hv)

/-- A code that fits the state register reads back. -/
theorem read_setOpState_same {s : State} {id value : Nat} (hid : id < s.modules.length) (hv : value < 2 ^ SW) :
    (s.setOpState id (BitVec.ofNat SW value)).read (.opState id) = value := by
  simp only [State.read, State.opState, State.setOpState, State.mod_setMod_same hid]
  exact toNat_ofNat_of_lt hv

/-- Settles O33: the command writes the state alone, whatever the latch registers hold, and answers the state that it
finds. -/
theorem wrStateWritesTheState : Obligations.WrStateWritesTheState := by
  refine ⟨fun c h => decode_of_op_wrState h, fun s id value hs hid hv => ?_, fun s id value h => ?_⟩
  · exact ⟨_, exec_wrState hid hv, read_setOpState_same (hs.mod_lt hid) hv, by simp [Responds, State.read],
      emits_setMod_respond ..,
      frame_setMod_respond (fun r hr => read_setMod_latch_opState s id _ _ hr fun _ _ => rfl) ..⟩
  · have hrange : rangeFails s (.wrState id value) = true := by
      simpa [rangeFails, Instr.module, Instr.slice, SW] using h
    exact ⟨_, exec_of_rangeFails hrange, rangeOnly_rangeError s⟩

end Sys2Proof.Machine
end

section
/-! PROOFS. The decimating task scheduler: the divisor (R101), and what TS_CONFIG (R100) and TS_STEP (R102) store,
answer and leave alone. -/

namespace Sys2Proof.Machine

/-! ### The divisor (R101) -/

/-- The rounded quotient of a nonzero target is no greater than the master frequency. -/
theorem rounded_div_le {t : Nat} (ht : 1 ≤ t) (m : Nat) : (2 * m + t) / (2 * t) ≤ m := by
  refine Nat.le_of_lt_succ ((Nat.div_lt_iff_lt_mul (by omega)).2 ?_)
  have hm : m ≤ m * t := Nat.le_mul_of_pos_right m ht
  calc
    2 * m + t < 2 * (m * t) + 2 * t := by omega
    _ = (m + 1) * (2 * t) := by ring

/-- The clamp of R101, case by case. -/
theorem divisor_eq_ite {p : Params} (hN : 1 ≤ p.nMax) {t : Nat} (ht : 1 ≤ t) (m : Nat) :
    divisor p t m =
      if (2 * m + t) / (2 * t) < 1 then 1 else if p.nMax < (2 * m + t) / (2 * t) then p.nMax
      else (2 * m + t) / (2 * t) := by
  rw [divisor, if_neg (by omega), clamp]
  split_ifs <;> omega

/-- Settles O24: the witness is the rounded quotient, whose doubled inequalities are the bounds of a quotient. -/
theorem divisorRoundsAndClamps : Obligations.DivisorRoundsAndClamps := by
  intro p hp m hm
  obtain ⟨-, -, -, -, -, -, -, -, -, hN, -⟩ := (legal_iff p).1 hp
  refine ⟨if_pos rfl, fun t ht => ⟨(2 * m + t) / (2 * t), ?_⟩⟩
  have hq := rounded_div_le ht m
  obtain ⟨hlo, hhi, -⟩ := divisor_bounds hp t m
  exact ⟨by omega, Nat.mul_div_le .., Nat.lt_mul_div_succ _ (by omega), divisor_eq_ite hN ht m, hlo, hhi⟩

/-! ### A command that writes one slice and responds -/

/-- Writing slice `j` and responding leaves alone what the write of the slice leaves alone. -/
theorem frame_setSlice_respond {written : Reg → Prop} {s : State} {j : Nat} {t : Slice}
    (h : ∀ r, ¬ written r → (s.setSlice j t).read r = s.read r) (st : Status) (a b : Word) :
    Frame written s ((s.setSlice j t).respond st a b) :=
  ⟨rfl, rfl, rfl, rfl, rfl, rfl, fun r hr => (read_respond ..).trans (h r hr)⟩

/-- Writing slice `j` and responding emits nothing. -/
theorem emits_setSlice_respond (s : State) (j : Nat) (t : Slice) (st : Status) (a b : Word) :
    Emits [] s ((s.setSlice j t).respond st a b) := by
  simp [Emits]

/-- The two registers of a written slice read the fields written (R30). -/
theorem reads_setSlice_same {s : State} {j : Nat} (hj : j < s.slices.length) (t : Slice) :
    (s.setSlice j t).read (.tsN j) = t.n.toNat ∧ (s.setSlice j t).read (.tsCounter j) = t.counter.toNat := by
  simp [State.read, State.slice_setSlice_same hj]

/-- Writing slice `j` leaves alone every register but its counter, and its divisor if that changes. -/
theorem read_setSlice_of_n (s : State) (j : Nat) (t : Slice) {r : Reg} (hc : r ≠ .tsCounter j)
    (hn : r = .tsN j → t.n = (s.slice j).n) : (s.setSlice j t).read r = s.read r := by
  refine read_setSlice_of s j t r fun s' hr hslice => ?_
  cases r with
  | tsN j' =>
    obtain rfl : j' = j := by simpa [Reg.slice] using hr
    simp [State.read, hslice, hn rfl]
  | tsCounter j' =>
    obtain rfl : j' = j := by simpa [Reg.slice] using hr
    exact absurd rfl hc
  | freq id | num id k | tbFlag id | flag id k i | counter id k i | debounceCount id k i | resetCount id k i
  | latch id k | opState id => cases hr

/-! ### TS_CONFIG (R100) -/

theorem decode_of_op_tsConfig {c : Command} (h : c.op = 0x08) : decode c = .ok (.tsConfig c.idx c.opA c.opB) := by
  simp only [decode, h]

/-- The slice that TS_CONFIG leaves: a new divisor, and a counter at 0. -/
def Slice.configured (p : Params) (targetHz masterHz : Nat) : Slice :=
  { n := BitVec.ofNat CW (divisor p targetHz masterHz), counter := 0 }

theorem exec_tsConfig {s : State} {j : Nat} (hj : j < s.params.S) (targetHz masterHz : Nat) :
    exec (.tsConfig j targetHz masterHz) s =
      .next ((s.setSlice j (Slice.configured s.params targetHz masterHz)).respond .ok
        (BitVec.ofNat 32 (divisor s.params targetHz masterHz)) 0) :=
  if_pos hj

/-- Settles O34: the command writes the configured slice, and the divisor fits its register. -/
theorem tsConfigSetsTheDivisor : Obligations.TsConfigSetsTheDivisor := by
  refine ⟨fun c h => decode_of_op_tsConfig h, fun s j target master hs hj => ?_, fun s j target master hj => ?_⟩
  · obtain ⟨hn, hcounter⟩ := reads_setSlice_same (hs.slice_lt hj) (Slice.configured s.params target master)
    obtain ⟨-, -, hfit⟩ := divisor_bounds hs.1 target master
    refine ⟨_, exec_tsConfig hj target master, hn.trans (toNat_ofNat_of_lt hfit), hcounter, rfl,
      emits_setSlice_respond .., frame_setSlice_respond (fun r hr => ?_) ..⟩
    obtain ⟨hrn, hrc⟩ := not_or.1 hr
    exact read_setSlice_of_n s j _ hrc fun h => absurd h hrn
  · exact ⟨_, exec_of_rangeFails (by simp [rangeFails, Instr.module, Instr.slice, hj]), rangeOnly_rangeError s⟩

/-! ### TS_STEP (R102) -/

theorem decode_of_op_tsStep {c : Command} (h : c.op = 0x09) : decode c = .ok (.tsStep c.idx) := by
  simp only [decode, h]

/-- The slice that TS_STEP leaves: the counter has counted one, or restarted at the divisor. -/
def Slice.stepped (t : Slice) : Slice :=
  { t with
    counter := if t.n.toNat ≤ t.counter.toNat + 1 then 0 else BitVec.ofNat CW (t.counter.toNat + 1) }

/-- TS_STEP writes the stepped slice and answers whether it restarted. -/
theorem exec_tsStep {s : State} {j : Nat} (hj : j < s.params.S) :
    exec (.tsStep j) s =
      .next ((s.setSlice j (s.slice j).stepped).respond .ok
        (BitVec.ofNat 32 (if s.read (.tsN j) ≤ s.read (.tsCounter j) + 1 then 1 else 0))
        (s.slice j).stepped.counter) := by
  refine (if_pos hj).trans ?_
  by_cases hfire : (s.slice j).n.toNat ≤ (s.slice j).counter.toNat + 1 <;> simp [Slice.stepped, State.read, hfire]

/-- Below the divisor the incremented counter fits its register, since the divisor does. -/
theorem Slice.toNat_stepped_counter (t : Slice) :
    t.stepped.counter.toNat = if t.n.toNat ≤ t.counter.toNat + 1 then 0 else t.counter.toNat + 1 := by
  by_cases hfire : t.n.toNat ≤ t.counter.toNat + 1
  · simp [Slice.stepped, hfire]
  · have hfit : t.counter.toNat + 1 < 2 ^ CW := (Nat.lt_of_not_le hfire).trans t.n.isLt
    simp only [Slice.stepped, hfire, if_false]
    exact toNat_ofNat_of_lt hfit

/-- Settles O35: the command writes the stepped slice, whose divisor is as before, and answers its counter. -/
theorem tsStepCountsAndFires : Obligations.TsStepCountsAndFires := by
  refine ⟨fun c h => decode_of_op_tsStep h, fun s j hs hj => ?_, fun s j hj => ?_⟩
  · obtain ⟨-, hcounter⟩ := reads_setSlice_same (hs.slice_lt hj) (s.slice j).stepped
    exact ⟨_, exec_tsStep hj, hcounter.trans (s.slice j).toNat_stepped_counter, by simp [Responds, hcounter],
      emits_setSlice_respond ..,
      frame_setSlice_respond (fun r hr => read_setSlice_of_n s j (s.slice j).stepped hr fun _ => rfl) ..⟩
  · exact ⟨_, exec_of_rangeFails (by simp [rangeFails, Instr.module, Instr.slice, hj]), rangeOnly_rangeError s⟩

end Sys2Proof.Machine
end

section
/-! PROOFS. Read-back and no-operation: what NOP (R114), RD_LATCH (R108), RD_MODULE (R109), RD_EVENT (R110),
RD_EVENT_CFG (R111) and RD_SLICE (R112) answer; none of them writes a register (R113). -/

namespace Sys2Proof.Machine

/-! ### A command that responds and writes nothing (R113) -/

/-- A command whose outcome is a response alone answers the values of the two words, emits nothing and changes
nothing. -/
theorem answers_of_respond {i : Instr} {s : State} {a b : Word} {na nb : Nat}
    (h : exec i s = .next (s.respond .ok a b)) (ha : a.toNat = na) (hb : b.toNat = nb) :
    ∃ t, exec i s = .next t ∧ Responds .ok na nb t ∧ Emits [] s t ∧ Frame (fun _ => False) s t := by
  subst ha hb
  exact ⟨_, h, respond_ok_only s a b⟩

/-- A command that fails a range check answers RANGE with no effect (R59, R121). -/
theorem rangeOnly_of_rangeFails {i : Instr} {s : State} (h : rangeFails s i = true) :
    ∃ t, exec i s = .next t ∧ RangeOnly s t :=
  ⟨_, exec_of_rangeFails h, rangeOnly_rangeError s⟩

/-! ### NOP (R114) -/

theorem decode_of_op_nop {c : Command} (h : c.op = 0x00) : decode c = .ok .nop := by
  simp only [decode, h]

theorem exec_nop (s : State) : exec .nop s = .next (s.respond .ok 0 0) := rfl

/-- Settles O25: NOP is a response alone, and has no range check. -/
theorem nopOnlyResponds : Obligations.NopOnlyResponds :=
  ⟨fun _ h => decode_of_op_nop h, fun s => answers_of_respond (exec_nop s) rfl rfl⟩

/-! ### RD_LATCH (R108) -/

theorem decode_of_op_rdLatch {c : Command} (h : c.op = 0x10) : decode c = .ok (.rdLatch c.id c.kind) := by
  simp only [decode, h]

theorem exec_rdLatch {s : State} {id : Nat} (hid : id < s.params.M) (k : Kind) :
    exec (.rdLatch id k) s = .next (s.respond .ok (s.latch id k) 0) :=
  if_pos hid

/-- A latch register has no bit at or above `E` (R28). -/
theorem State.Inv.latch_lt {s : State} (h : s.Inv) {id : Nat} (hid : id < s.params.M) (k : Kind) :
    s.read (.latch id k) < 2 ^ s.params.E := by
  obtain ⟨-, -, hbanks⟩ := (ModuleRegs.ok_iff ..).1 (h.mod_ok hid)
  obtain ⟨-, -, hlatch, -⟩ := hbanks k
  exact hlatch

/-- Settles O36: the response holds the register itself, whose bound is part of the invariant. -/
theorem rdLatchReturnsTheRegister : Obligations.RdLatchReturnsTheRegister := by
  refine ⟨fun c h => decode_of_op_rdLatch h, fun s id k hid => answers_of_respond (exec_rdLatch hid k) rfl rfl,
    fun s id k hs hid => hs.latch_lt hid k, fun s id k hid => rangeOnly_of_rangeFails ?_⟩
  simp [rangeFails, Instr.module, hid]

/-! ### RD_MODULE (R109) -/

theorem decode_of_op_rdModule {c : Command} (h : c.op = 0x11) : decode c = .ok (.rdModule c.id) := by
  simp only [decode, h]

theorem exec_rdModule {s : State} {id : Nat} (hid : id < s.params.M) :
    exec (.rdModule id) s = .next (s.respond .ok (moduleWord (s.mod id)) (s.mod id).freq) :=
  if_pos hid

theorem bitOf_eq_toNat (b : Bool) : bitOf b = b.toNat := by cases b <;> rfl

/-- The operating bit: the state code is above INTERLOCK (R29). -/
theorem ModuleRegs.toNat_operating (m : ModuleRegs) : m.operating.toNat = if 1 < m.opState.toNat then 1 else 0 :=
  Bool.cond_decide ..

/-- The fields of the word, each at its place. -/
theorem toNat_moduleWord (m : ModuleRegs) :
    (moduleWord m).toNat = m.opState.toNat + 2 ^ 8 * bitOf m.tbFlag + 2 ^ 9 * (if 1 < m.opState.toNat then 1 else 0) +
      2 ^ 16 * m.num.hard.toNat + 2 ^ 24 * m.num.soft.toNat := by
  rw [← m.toNat_operating, bitOf_eq_toNat]
  simp only [moduleWord, toNat_append_add, BitVec.toNat_ofBool, BitVec.ofNat_eq_ofNat, BitVec.toNat_zero, SW]
  ring

/-- Settles O37: the response holds the assembled word and the frequency register. -/
theorem rdModuleReturnsTheStateWord : Obligations.RdModuleReturnsTheStateWord := by
  refine ⟨fun c h => decode_of_op_rdModule h,
    fun s id hid => answers_of_respond (exec_rdModule hid) (toNat_moduleWord (s.mod id)) rfl,
    fun s id hid => rangeOnly_of_rangeFails ?_⟩
  simp [rangeFails, Instr.module, hid]

/-! ### RD_EVENT (R110) -/

theorem decode_of_op_rdEvent {c : Command} (h : c.op = 0x12) : decode c = .ok (.rdEvent c.id c.kind c.idx) := by
  simp only [decode, h]

theorem exec_rdEvent {s : State} {id i : Nat} (hid : id < s.params.M) (hi : i < s.params.E) (k : Kind) :
    exec (.rdEvent id k i) s =
      .next (s.respond .ok (s.event id k i).counter (eventWord (s.event id k i) (s.latchBit id k i))) :=
  (if_pos hid).trans (if_pos hi)

/-- The code of the derived state, from the registers of the event (R26). -/
theorem Event.code_phase (e : Event) :
    e.phase.code = if bitOf e.flag = 0 then 0 else if e.counter.toNat < e.debounceCount.toNat then 1 else 2 := by
  cases hf : e.flag with
  | false => simp [Event.phase, Phase.code, bitOf, hf]
  | true =>
    by_cases hc : e.counter.toNat < e.debounceCount.toNat <;> simp [Event.phase, Phase.code, bitOf, hf, hc]

/-- The code of a derived state fits the two bits of its field. -/
theorem Phase.code_lt (p : Phase) : p.code < 2 ^ 2 := by cases p <;> decide

/-- The fields of the word, each at its place. -/
theorem toNat_eventWord (e : Event) (latchBit : Bool) :
    (eventWord e latchBit).toNat = bitOf e.flag + 2 ^ 8 * e.phase.code + 2 ^ 16 * latchBit.toNat := by
  simp only [eventWord, toNat_append_add, toNat_ofNat_of_lt e.phase.code_lt, BitVec.toNat_ofBool, BitVec.ofNat_eq_ofNat,
    BitVec.toNat_zero, bitOf_eq_toNat]
  ring

/-- The latch bit of event `i` is bit `i` of the latch register (R28). -/
theorem toNat_latchBit (s : State) (id : Nat) (k : Kind) (i : Nat) :
    (s.latchBit id k i).toNat = s.read (.latch id k) / 2 ^ i % 2 :=
  Nat.toNat_testBit ..

/-- Settles O38: the response holds the counter and the assembled word. -/
theorem rdEventReturnsTheSnapshot : Obligations.RdEventReturnsTheSnapshot := by
  refine ⟨fun c h => decode_of_op_rdEvent h,
    fun s id k i hid hi => answers_of_respond (exec_rdEvent hid hi k) rfl ?_,
    fun s id k i h => rangeOnly_of_rangeFails ?_⟩
  · rw [toNat_eventWord, Event.code_phase, toNat_latchBit]
    rfl
  · simpa [rangeFails, Instr.module, Instr.slice] using h

/-! ### RD_EVENT_CFG (R111) -/

theorem decode_of_op_rdEventCfg {c : Command} (h : c.op = 0x13) : decode c = .ok (.rdEventCfg c.id c.kind c.idx) := by
  simp only [decode, h]

theorem exec_rdEventCfg {s : State} {id i : Nat} (hid : id < s.params.M) (hi : i < s.params.E) (k : Kind) :
    exec (.rdEventCfg id k i) s =
      .next (s.respond .ok (s.event id k i).debounceCount (s.event id k i).resetCount) :=
  (if_pos hid).trans (if_pos hi)

/-- Settles O39: the response holds the two count registers themselves. -/
theorem rdEventCfgReturnsTheCounts : Obligations.RdEventCfgReturnsTheCounts := by
  refine ⟨fun c h => decode_of_op_rdEventCfg h,
    fun s id k i hid hi => answers_of_respond (exec_rdEventCfg hid hi k) rfl rfl,
    fun s id k i h => rangeOnly_of_rangeFails ?_⟩
  simpa [rangeFails, Instr.module, Instr.slice] using h

/-! ### RD_SLICE (R112) -/

theorem decode_of_op_rdSlice {c : Command} (h : c.op = 0x14) : decode c = .ok (.rdSlice c.idx) := by
  simp only [decode, h]

theorem exec_rdSlice {s : State} {j : Nat} (hj : j < s.params.S) :
    exec (.rdSlice j) s = .next (s.respond .ok (s.slice j).counter (s.slice j).n) :=
  if_pos hj

/-- Settles O40: the response holds the two registers of the slice themselves. -/
theorem rdSliceReturnsTheSlice : Obligations.RdSliceReturnsTheSlice := by
  refine ⟨fun c h => decode_of_op_rdSlice h, fun s j hj => answers_of_respond (exec_rdSlice hj) rfl rfl,
    fun s j hj => rangeOnly_of_rangeFails ?_⟩
  simp [rangeFails, Instr.module, Instr.slice, hj]

end Sys2Proof.Machine
end

section
/-! PROOFS. Exceptions: when a step emits `TurnOff` (R124), and the continuous status outputs (R125). -/

namespace Sys2Proof.Machine

/-! ### Outcomes that raise no latch bit -/

/-- The outcome is a next state with the latch registers as they were and no `TurnOff` added. -/
def KeepsLatches (s : State) (o : Host.Outcome State Fault Refusal) : Prop :=
  ∃ t, o = .next t ∧ Emits [] s t ∧ ∀ id k, t.read (.latch id k) = s.read (.latch id k)

theorem keepsLatches_respond (s : State) (st : Status) (a b : Word) : KeepsLatches s (.next (s.respond st a b)) :=
  ⟨_, rfl, by simp [Emits], fun _ _ => read_respond ..⟩

/-- A range check in front of an outcome raises no latch bit either: its other answer is RANGE. -/
theorem keepsLatches_check {p : Prop} [Decidable p] {s : State} {o : Host.Outcome State Fault Refusal}
    (h : KeepsLatches s o) : KeepsLatches s (if p then o else .next s.rangeError) := by
  split
  · exact h
  · exact keepsLatches_respond ..

/-- Writing a module with the latch registers that it had keeps the latches. -/
theorem keepsLatches_setMod_respond {s : State} {id : Nat} {m : ModuleRegs} {st : Status} {a b : Word}
    (hm : m.latch = (s.mod id).latch) : KeepsLatches s (.next ((s.setMod id m).respond st a b)) := by
  refine ⟨_, rfl, emits_setMod_respond .., fun id' k => (read_respond ..).trans ?_⟩
  refine read_setMod_of s id m _ fun s' hr hmod => ?_
  obtain rfl : id' = id := by simpa [Reg.module] using hr
  simp [State.read, State.latch, hmod, hm]

theorem keepsLatches_setSlice_respond (s : State) (j : Nat) (x : Slice) (st : Status) (a b : Word) :
    KeepsLatches s (.next ((s.setSlice j x).respond st a b)) :=
  ⟨_, rfl, emits_setSlice_respond .., fun _ _ => (read_respond ..).trans (read_setSlice_ne s j x nofun)⟩

/-! ### What a command does to the latches -/

/-- The set procedure keeps the latches unless the event is configured, at its threshold and not latched (R86). -/
theorem setProcedure_latch_cases (s : State) (id : Nat) (k : Kind) (i : Nat) :
    KeepsLatches s (.next (s.setProcedure id k i)) ∨
      id < s.params.M ∧ i < s.num id k ∧ (s.event id k i).thresholdMet = true ∧ s.latchBit id k i = false := by
  rcases s.setProcedure_cases id k i with ⟨-, h⟩ | ⟨hid, hi, ⟨-, h⟩ | ⟨-, -, h⟩ | ⟨hmet, hbit, -⟩⟩
  · exact .inl (h ▸ keepsLatches_respond ..)
  · exact .inl (h ▸ keepsLatches_setMod_respond rfl)
  · exact .inl (h ▸ keepsLatches_setMod_respond rfl)
  · exact .inr ⟨hid, hi, hmet, hbit⟩

/-- A command keeps the latches, or it is ITLK_RESET on a module, or it is a SET that latches (R35, R86). -/
theorem exec_latch_cases (c : Instr) (s : State) :
    KeepsLatches s (exec c s) ∨ (∃ id safe, c = .itlkReset id safe ∧ id < s.params.M) ∨
      ∃ id k i, c = setCommand id k i ∧ id < s.params.M ∧ i < s.num id k ∧
        (s.event id k i).thresholdMet = true ∧ s.latchBit id k i = false := by
  cases c with
  | nop => exact .inl (keepsLatches_respond ..)
  | rdLatch | rdModule | rdSlice => exact .inl (keepsLatches_check (keepsLatches_respond ..))
  | rdEvent | rdEventCfg => exact .inl (keepsLatches_check (keepsLatches_check (keepsLatches_respond ..)))
  | emInit | emTbSignal => exact .inl (keepsLatches_check (keepsLatches_setMod_respond rfl))
  | emCfgEvent | wrState =>
    exact .inl (keepsLatches_check (keepsLatches_check (keepsLatches_setMod_respond rfl)))
  | emTick =>
    refine .inl (keepsLatches_check ?_)
    split
    · exact keepsLatches_setMod_respond rfl
    · exact keepsLatches_respond ..
  | tsConfig => exact .inl (keepsLatches_check (keepsLatches_setSlice_respond ..))
  | tsStep =>
    refine .inl (keepsLatches_check ?_)
    split <;> exact keepsLatches_setSlice_respond ..
  | itlkReset id safe =>
    by_cases hid : id < s.params.M
    · exact .inr (.inl ⟨id, safe, rfl, hid⟩)
    · have hrange : exec (.itlkReset id safe) s = .next s.rangeError := if_neg hid
      exact .inl (hrange ▸ keepsLatches_respond ..)
  | setHard id i =>
    exact (setProcedure_latch_cases s id .hard i).imp_right fun h => .inr ⟨id, .hard, i, rfl, h⟩
  | setSoft id i =>
    exact (setProcedure_latch_cases s id .soft i).imp_right fun h => .inr ⟨id, .soft, i, rfl, h⟩

/-! ### What a step can do (R17) -/

/-- A step resets the block, takes no command, answers ILLEGAL, or executes the decoded command on the begun step. -/
theorem step_cases {s t : State} (h : step s = .next t) :
    (s.rstAsserted = true ∧ t = s.resetStep) ∨
    (s.rstAsserted = false ∧ s.chosen = none ∧ t = s.beginStep) ∨
    (s.rstAsserted = false ∧ ∃ p c, s.chosen = some (p, c) ∧
      ((∃ e, decode c = .error e ∧ t = s.beginStep.illegalError) ∨
        ∃ i, decode c = .ok i ∧ exec i s.beginStep = .next t)) := by
  unfold step at h
  split at h
  case isFalse => cases h
  case isTrue =>
    split at h
    case isTrue hrst =>
      cases h
      exact .inl ⟨hrst, rfl⟩
    case isFalse hrst =>
      rw [Bool.not_eq_true] at hrst
      split at h
      case h_1 hnone =>
        cases h
        exact .inr (.inl ⟨hrst, hnone, rfl⟩)
      case h_2 p c hsome =>
        refine .inr (.inr ⟨hrst, p, c, hsome, ?_⟩)
        split at h
        case h_1 i hok => exact .inr ⟨i, hok, h⟩
        case h_2 e herr =>
          cases h
          exact .inl ⟨e, herr, rfl⟩

theorem State.Inv.beginStep {s : State} (h : s.Inv) : s.beginStep.Inv := h.of_registers rfl rfl rfl

/-! ### `TurnOff` on a new latch (R124) -/

/-- `t` follows `s` with at most one `TurnOff`, for exactly the modules in which a latch bit goes from 0 to 1, and these
are in INTERLOCK. -/
def TurnOffFollowsLatches (s t : State) : Prop :=
  t.out.turnOff.length ≤ 1 ∧
    ∀ id, id < s.params.M →
      ((id ∈ t.out.turnOff ↔ ∃ k i, s.latchBit id k i = false ∧ t.latchBit id k i = true) ∧
        (id ∈ t.out.turnOff → t.read (.opState id) = 1))

/-- A latch bit is a bit of the latch register's value (R28). -/
theorem latchBit_eq_testBit (s : State) (id : Nat) (k : Kind) (i : Nat) :
    s.latchBit id k i = (s.read (.latch id k)).testBit i := rfl

/-- Without an event, it is enough that each latch register stays as it is or is cleared. -/
theorem turnOffFollowsLatches_of_none {s t : State} (hout : t.out.turnOff = [])
    (hlatch : ∀ id k, t.read (.latch id k) = s.read (.latch id k) ∨ t.read (.latch id k) = 0) :
    TurnOffFollowsLatches s t := by
  refine ⟨by simp [hout], fun id _ => ?_⟩
  have hrise : ¬ ∃ k i, s.latchBit id k i = false ∧ t.latchBit id k i = true := by
    rintro ⟨k, i, hs, ht⟩
    rw [latchBit_eq_testBit] at hs ht
    rcases hlatch id k with h | h <;> simp [h, hs] at ht
  simp [hout, hrise]

/-- With one event, of module `id`: a latch bit of that module rises, the latch registers of the others stay, and the
module is in INTERLOCK. -/
theorem turnOffFollowsLatches_of_one {s t : State} {id : Nat} {k : Kind} {i : Nat} (hout : t.out.turnOff = [id])
    (hbit : s.latchBit id k i = false) (hset : t.read (.latch id k) = s.read (.latch id k) + 2 ^ i)
    (hne : ∀ id' k', id' ≠ id → t.read (.latch id' k') = s.read (.latch id' k'))
    (hstate : t.read (.opState id) = 1) : TurnOffFollowsLatches s t := by
  refine ⟨by simp [hout], fun id' _ => ?_⟩
  rw [hout, List.mem_singleton]
  refine ⟨⟨?_, ?_⟩, fun h => h ▸ hstate⟩
  · rintro rfl
    refine ⟨k, i, hbit, ?_⟩
    rw [latchBit_eq_testBit] at hbit ⊢
    rw [hset, Nat.add_comm, Nat.testBit_two_pow_add_eq, hbit]
    rfl
  · rintro ⟨k', i', hs, ht⟩
    by_contra hid
    rw [latchBit_eq_testBit] at hs ht
    simp [hne id' k' hid, hs] at ht

/-- Reset leaves every latch register 0 (R141). -/
theorem read_resetStep_latch (s : State) (id : Nat) (k : Kind) : s.resetStep.read (.latch id k) = 0 := by
  have hmod : s.resetStep.mod id = ModuleRegs.reset s.params := by
    simp only [State.mod, State.resetStep_modules, State.resetStep_params, List.getD, List.getElem?_replicate]
    split <;> rfl
  simp only [State.read, State.latch, hmod]
  cases k <;> rfl

/-- ITLK_RESET clears the latch registers of its module and keeps those of the others (R95). -/
theorem read_leaveLatch_latch_cases {s : State} (hs : s.Inv) {id : Nat} (hid : id < s.params.M) (safe : Bool)
    (id' : Nat) (k : Kind) :
    (s.leaveLatch id safe).read (.latch id' k) = s.read (.latch id' k) ∨
      (s.leaveLatch id safe).read (.latch id' k) = 0 := by
  by_cases h : id' = id
  · exact .inr (h ▸ read_leaveLatch_latch (hs.mod_lt hid) safe k)
  · exact .inl (read_setMod_ne s id _ (by simpa [Reg.module] using h))

/-- A command executed where no event has been emitted yet. -/
theorem exec_turnOffFollowsLatches {c : Instr} {s t : State} (hs : s.Inv) (hquiet : s.out.turnOff = [])
    (h : exec c s = .next t) : TurnOffFollowsLatches s t := by
  rcases exec_latch_cases c s with
    ⟨t', ht', hemit, hlatch⟩ | ⟨id, safe, rfl, hid⟩ | ⟨id, k, i, rfl, hid, hi, hmet, hbit⟩
  · cases ht'.symm.trans h
    exact turnOffFollowsLatches_of_none (by simpa [Emits, hquiet] using hemit) fun id k => .inl (hlatch id k)
  · cases (exec_itlkReset hid safe).symm.trans h
    refine turnOffFollowsLatches_of_none (by simpa using hquiet) fun id' k => ?_
    simpa using read_leaveLatch_latch_cases hs hid safe id' k
  · cases (exec_setCommand id k i s).symm.trans h
    obtain ⟨-, -, hstate, hset, -, hemit, -, -, -, -, -, -, hframe⟩ :=
      setProcedure_latches hs hid hi (of_decide_eq_true hmet) hbit
    exact turnOffFollowsLatches_of_one (by simpa [Emits, hquiet] using hemit) hbit hset
      (fun id' k' hne => hframe _ (by simp [hne])) hstate

/-- Settles O46: of what a step can do, only a SET that latches emits an event or raises a latch bit, and it does
both. -/
theorem turnOffExactlyOnANewLatch : Obligations.TurnOffExactlyOnANewLatch := by
  intro s t hs h
  rcases step_cases h with ⟨-, rfl⟩ | ⟨-, -, rfl⟩ | ⟨-, p, c, -, ⟨-, -, rfl⟩ | ⟨i, -, hexec⟩⟩
  · exact turnOffFollowsLatches_of_none rfl fun id k => .inr (read_resetStep_latch s id k)
  · exact turnOffFollowsLatches_of_none rfl fun _ _ => .inl (read_beginStep ..)
  · exact turnOffFollowsLatches_of_none rfl fun _ _ => .inl (by simp)
  · -- the begun step has the registers of `s`, so what follows it follows `s`
    have hfollows : TurnOffFollowsLatches s.beginStep t := exec_turnOffFollowsLatches hs.beginStep rfl hexec
    exact hfollows

/-! ### The continuous status outputs (R125) -/

theorem operating_iff (s : State) (id : Nat) : s.operating id = true ↔ 1 < s.read (.opState id) := decide_eq_true_iff

theorem latched_iff (s : State) (id : Nat) :
    s.latched id = true ↔ s.read (.latch id .hard) ≠ 0 ∨ s.read (.latch id .soft) ≠ 0 := by
  have hor : s.latched id = true ↔ s.latch id .hard ||| s.latch id .soft ≠ 0#32 := bne_iff_ne
  rw [hor, Ne, BitVec.or_eq_zero_iff, not_and_or, ← BitVec.toNat_inj, ← BitVec.toNat_inj]
  rfl

/-- Settles O54: each output is the comparison that R125 names. -/
theorem continuousOutputsFollowTheRegisters : Obligations.ContinuousOutputsFollowTheRegisters :=
  fun s id => ⟨operating_iff s id, latched_iff s id⟩

end Sys2Proof.Machine
end

section
/-! PROOFS. Reset: the value of every register in the reset state (R141), which meets the invariant, and the SET
commands in that state (R143). -/

namespace Sys2Proof.Machine

/-! ### The records of the reset state -/

/-- In range or not, a module of the reset state is the reset module. -/
theorem mod_resetWith (p : Params) (id : Nat) : (State.resetWith p).mod id = ModuleRegs.reset p :=
  List.getElem?_getD_replicate_default_eq ..

theorem slice_resetWith (p : Params) (j : Nat) : (State.resetWith p).slice j = Slice.reset :=
  List.getElem?_getD_replicate_default_eq ..

theorem event_resetWith (p : Params) (id : Nat) (k : Kind) (i : Nat) :
    (State.resetWith p).event id k i = Event.reset := by
  rw [event_of_mod, mod_resetWith]
  cases k <;> exact defaultBank_getD p i

/-- `E` fits the count register (R5, R23). -/
theorem ModuleRegs.toNat_num_reset {p : Params} (hp : p.legal = true) (k : Kind) :
    ((ModuleRegs.reset p).num.get k).toNat = p.E := by
  obtain ⟨-, -, -, hE, -⟩ := (legal_iff p).1 hp
  have hfits : (BitVec.ofNat 6 p.E).toNat = p.E := toNat_ofNat_of_lt (by omega)
  cases k <;> exact hfits

/-! ### The reset values, register by register (R141) -/

theorem read_resetWith_num {p : Params} (hp : p.legal = true) (id : Nat) (k : Kind) :
    (State.resetWith p).read (.num id k) = p.E := by
  simpa only [State.read, State.num, mod_resetWith] using ModuleRegs.toNat_num_reset hp k

section
variable (p : Params) (id : Nat)

theorem read_resetWith_freq : (State.resetWith p).read (.freq id) = 1 := by
  simp only [State.read, mod_resetWith]
  rfl

theorem read_resetWith_tbFlag : (State.resetWith p).read (.tbFlag id) = 0 := by
  simp only [State.read, mod_resetWith]
  rfl

theorem read_resetWith_opState : (State.resetWith p).read (.opState id) = 0 := by
  simp only [State.read, State.opState, mod_resetWith]
  rfl

theorem read_resetWith_latch (k : Kind) : (State.resetWith p).read (.latch id k) = 0 := by
  simp only [State.read, State.latch, mod_resetWith]
  cases k <;> rfl

theorem reads_resetWith_event (k : Kind) (i : Nat) :
    (State.resetWith p).read (.flag id k i) = 0 ∧ (State.resetWith p).read (.counter id k i) = 0 ∧
      (State.resetWith p).read (.debounceCount id k i) = 0 ∧ (State.resetWith p).read (.resetCount id k i) = 1 :=
  reads_of_event (event_resetWith p id k i)

theorem reads_resetWith_slice (j : Nat) :
    (State.resetWith p).read (.tsN j) = 1 ∧ (State.resetWith p).read (.tsCounter j) = 0 := by
  simp only [State.read, slice_resetWith]
  exact ⟨rfl, rfl⟩

theorem operating_resetWith : (State.resetWith p).operating id = false := by
  simp [← Bool.not_eq_true, operating_iff, read_resetWith_opState]

theorem latched_resetWith : (State.resetWith p).latched id = false := by
  simp [← Bool.not_eq_true, latched_iff, read_resetWith_latch]

end

/-- Settles O15, register by register. -/
theorem resetValuesAreTheTables : Obligations.ResetValuesAreTheTables := fun p hp =>
  ⟨fun id _ =>
    ⟨read_resetWith_freq p id, read_resetWith_tbFlag p id, read_resetWith_opState p id, operating_resetWith p id,
      latched_resetWith p id, fun k =>
        ⟨read_resetWith_num hp id k, read_resetWith_latch p id k, fun i _ => reads_resetWith_event p id k i⟩⟩,
    fun j _ => reads_resetWith_slice p j, rfl, rfl⟩

/-! ### The reset state meets the invariant -/

theorem ModuleRegs.reset_ok {p : Params} (hp : p.legal = true) : (ModuleRegs.reset p).ok p := by
  obtain ⟨-, -, -, -, -, -, hF, -⟩ := (legal_iff p).1 hp
  have hnum := fun k => (ModuleRegs.toNat_num_reset hp k).le
  have hlatch : (0 : BitVec 32).toNat < 2 ^ p.E := Nat.two_pow_pos p.E
  exact ⟨le_rfl, hF, bankOk_default hp le_rfl hF (hnum .hard) hlatch,
    bankOk_default hp le_rfl hF (hnum .soft) hlatch⟩

theorem Slice.reset_ok {p : Params} (hp : p.legal = true) : Slice.reset.ok p := by
  obtain ⟨-, -, -, -, -, -, -, -, -, hN, -⟩ := (legal_iff p).1 hp
  exact ⟨Nat.one_pos, hN⟩

theorem State.inv_resetWith {p : Params} (hp : p.legal = true) : (State.resetWith p).Inv :=
  ⟨hp, List.length_replicate, List.length_replicate,
    fun _ hm => List.eq_of_mem_replicate hm ▸ ModuleRegs.reset_ok hp,
    fun _ ht => List.eq_of_mem_replicate ht ▸ Slice.reset_ok hp⟩

/-! ### SET on the reset state (R143) -/

/-- Settles O21: with debounce count 0 every event is at its threshold, so a SET on the reset state takes the outcome
that latches. -/
theorem resetStateIsFailSafe : Obligations.ResetStateIsFailSafe := by
  refine fun p hp => ⟨State.inv_resetWith hp, fun id k hid => ⟨read_resetWith_num hp id k, fun i hi => ?_⟩⟩
  obtain ⟨-, hcounter, hdebounce, -⟩ := reads_resetWith_event p id k i
  have hconfigured : i < (State.resetWith p).read (.num id k) := hi.trans_eq (read_resetWith_num hp id k).symm
  have hclear : (State.resetWith p).latchBit id k i = false := by
    simp [latchBit_eq_testBit, read_resetWith_latch]
  obtain ⟨-, -, hstate, hlatch, hresponds, hemits, -⟩ :=
    setProcedure_latches (State.inv_resetWith hp) hid hconfigured (by omega) hclear
  rw [hcounter] at hresponds
  rw [read_resetWith_latch, Nat.zero_add] at hlatch
  exact ⟨hdebounce, _, exec_setCommand id k i _, hresponds, hemits, hstate, hlatch⟩

end Sys2Proof.Machine
end

section
/-! PROOFS. Encoding: the decoder inverts the encoder (R53 to R57), what it answers fits its fields, it reads no other
bits (R61), and commands as twelve bytes (R41, R42, R62). -/

namespace Sys2Proof

open Machine

/-! ### The fields of an encoded command (R53) -/

section
variable {op id n idx : Nat} {a b : Word}

theorem op_of_header (h : op < 2 ^ 8) : (Command.mk (header op id n idx) a b).op = op :=
  (field_header_op ..).trans (Nat.mod_eq_of_lt h)

theorem id_of_header (h : id < 2 ^ 4) : (Command.mk (header op id n idx) a b).id = id :=
  (field_header_id ..).trans (Nat.mod_eq_of_lt h)

theorem idx_of_header (h : idx < 2 ^ 8) : (Command.mk (header op id n idx) a b).idx = idx :=
  (field_header_idx ..).trans (Nat.mod_eq_of_lt h)

theorem kind_of_header {k : Kind} (h : n = k.bit) : (Command.mk (header op id n idx) a b).kind = k := by
  subst h
  cases k <;> simp [Command.kind, Kind.bit]

theorem opA_of_ofNat {v : Nat} (h : v < 2 ^ 32) : (Command.mk a (BitVec.ofNat 32 v) b).opA = v := toNat_ofNat_of_lt h

theorem opB_of_ofNat {v : Nat} (h : v < 2 ^ 32) : (Command.mk a b (BitVec.ofNat 32 v)).opB = v := toNat_ofNat_of_lt h

end

/-- Settles O2: the opcode of an encoded command selects its own row of the decoder, and each field holds the operand
written to it. -/
theorem decodeOfEncodeIsIdentity : Obligations.DecodeOfEncodeIsIdentity := by
  intro i hwf
  cases i <;>
    simp only [Instr.wf, idFits, idxFits, countFits, wordFits, Bool.and_eq_true, decide_eq_true_eq] at hwf
  case nop => exact decode_of_op_nop (op_of_header (by decide))
  case emInit id f nh ns =>
    obtain ⟨⟨⟨hid, hf⟩, hnh⟩, hns⟩ := hwf
    obtain ⟨hnh', hns'⟩ := countsWord_fields nh ns
    rw [encode, decode_of_op_emInit (op_of_header (by decide)), id_of_header hid, opA_of_ofNat hf, hnh', hns',
      Nat.mod_eq_of_lt hnh, Nat.mod_eq_of_lt hns]
  case emCfgEvent id k i d r =>
    obtain ⟨⟨⟨hid, hi⟩, hd⟩, hr⟩ := hwf
    rw [encode, decode_of_op_emCfgEvent (op_of_header (by decide)), id_of_header hid, kind_of_header rfl,
      idx_of_header hi, opA_of_ofNat hd, opB_of_ofNat hr]
  case emTbSignal id => rw [encode, decode_of_op_emTbSignal (op_of_header (by decide)), id_of_header hwf]
  case emTick id => rw [encode, decode_of_op_emTick (op_of_header (by decide)), id_of_header hwf]
  case setHard id i =>
    rw [encode, decode_of_op_set (op_of_header (by decide)), id_of_header hwf.1,
      kind_of_header (show 0 = Kind.hard.bit from rfl), idx_of_header hwf.2, setCommand]
  case setSoft id i =>
    rw [encode, decode_of_op_set (op_of_header (by decide)), id_of_header hwf.1,
      kind_of_header (show 1 = Kind.soft.bit from rfl), idx_of_header hwf.2, setCommand]
  case itlkReset id safe =>
    rw [encode, decode_of_op_itlkReset (op_of_header (by decide)), id_of_header hwf]
    cases safe <;> simp
  case wrState id value =>
    rw [encode, decode_of_op_wrState (op_of_header (by decide)), id_of_header hwf.1, opA_of_ofNat hwf.2]
  case tsConfig j t m =>
    obtain ⟨⟨hj, ht⟩, hm⟩ := hwf
    rw [encode, decode_of_op_tsConfig (op_of_header (by decide)), idx_of_header hj, opA_of_ofNat ht, opB_of_ofNat hm]
  case tsStep j => rw [encode, decode_of_op_tsStep (op_of_header (by decide)), idx_of_header hwf]
  case rdLatch id k =>
    rw [encode, decode_of_op_rdLatch (op_of_header (by decide)), id_of_header hwf, kind_of_header rfl]
  case rdModule id => rw [encode, decode_of_op_rdModule (op_of_header (by decide)), id_of_header hwf]
  case rdEvent id k i =>
    rw [encode, decode_of_op_rdEvent (op_of_header (by decide)), id_of_header hwf.1, kind_of_header rfl,
      idx_of_header hwf.2]
  case rdEventCfg id k i =>
    rw [encode, decode_of_op_rdEventCfg (op_of_header (by decide)), id_of_header hwf.1, kind_of_header rfl,
      idx_of_header hwf.2]
  case rdSlice j => rw [encode, decode_of_op_rdSlice (op_of_header (by decide)), idx_of_header hwf]

/-! ### What is read from a field fits it -/

@[simp] theorem idFits_id (c : Command) : idFits c.id = true := decide_eq_true (field_lt ..)

@[simp] theorem idxFits_idx (c : Command) : idxFits c.idx = true := decide_eq_true (field_lt ..)

@[simp] theorem countFits_field (v : Word) (lo : Nat) : countFits (field v lo 8) = true := decide_eq_true (field_lt ..)

@[simp] theorem wordFits_opA (c : Command) : wordFits c.opA = true := decide_eq_true c.w1.isLt

@[simp] theorem wordFits_opB (c : Command) : wordFits c.opB = true := decide_eq_true c.w2.isLt

/-- Settles O3: each arm of the decoder takes its operands from fields of their width. -/
theorem decodedCommandsAreEncodable : Obligations.DecodedCommandsAreEncodable := by
  intro c i h
  unfold decode at h
  split at h
  case h_6 => split at h <;> cases h <;> simp [Instr.wf]
  case h_16 => cases h
  all_goals
    cases h
    simp [Instr.wf]

/-! ### The bits that the decoder reads (R61) -/

/-- A field is read from the bits of any mask that covers it. -/
theorem field_and_of_covers {m : Word} {lo len : Nat} (h : m.extractLsb' lo len = BitVec.allOnes len) (v : Word) :
    field (v &&& m) lo len = field v lo len := by
  rw [field, BitVec.extractLsb'_and, h, BitVec.and_allOnes, field]

/-- The bits of a command that a row selects by or reads, every other bit 0. -/
def OpcodeRow.masked (r : OpcodeRow) (c : Command) : Command :=
  ⟨c.w0 &&& (r.mask ||| r.readsW0), c.w1 &&& r.readsA, c.w2 &&& r.readsB⟩

/-- The opcode that a row selects by. -/
theorem op_of_selects {r : OpcodeRow} (hr : r ∈ opcodeMap) {c : Command} (h : r.selects c.w0 = true) :
    c.op = field r.pattern 24 8 := by
  have hcovers : ∀ x ∈ opcodeMap, x.mask.extractLsb' 24 8 = BitVec.allOnes 8 := by decide
  rw [Command.op, ← field_and_of_covers (hcovers r hr), beq_iff_eq.1 h]

/-- The bits read include the opcode. -/
theorem op_masked {r : OpcodeRow} (hr : r ∈ opcodeMap) (c : Command) : (r.masked c).op = c.op := by
  have hcovers : ∀ x ∈ opcodeMap, (x.mask ||| x.readsW0).extractLsb' 24 8 = BitVec.allOnes 8 := by decide
  exact field_and_of_covers (hcovers r hr) c.w0

section
variable {r : OpcodeRow} (c : Command)

theorem id_masked (h : (r.mask ||| r.readsW0).extractLsb' 20 4 = BitVec.allOnes 4) : (r.masked c).id = c.id :=
  field_and_of_covers h c.w0

theorem kind_masked (h : (r.mask ||| r.readsW0).extractLsb' 19 1 = BitVec.allOnes 1) : (r.masked c).kind = c.kind :=
  congrArg (fun b => if b = 0 then Kind.hard else .soft) (field_and_of_covers h c.w0)

theorem idx_masked (h : (r.mask ||| r.readsW0).extractLsb' 8 8 = BitVec.allOnes 8) : (r.masked c).idx = c.idx :=
  field_and_of_covers h c.w0

theorem opA_masked (h : r.readsA = BitVec.allOnes 32) : (r.masked c).opA = c.opA := by
  simp only [Command.opA, OpcodeRow.masked, h, BitVec.and_allOnes]

theorem opB_masked (h : r.readsB = BitVec.allOnes 32) : (r.masked c).opB = c.opB := by
  simp only [Command.opB, OpcodeRow.masked, h, BitVec.and_allOnes]

theorem count_masked {lo : Nat} (h : r.readsB.extractLsb' lo 8 = BitVec.allOnes 8) :
    field (r.masked c).w2 lo 8 = field c.w2 lo 8 :=
  field_and_of_covers h c.w2

theorem safe_masked (h : r.readsA.getLsbD 0 = true) : (r.masked c).w1.getLsbD 0 = c.w1.getLsbD 0 := by
  simp only [OpcodeRow.masked, BitVec.getLsbD_and, h, Bool.and_true]

end

/-- Other bits than those that the row selects by or reads have no effect on what the decoder answers. -/
theorem decode_masked {r : OpcodeRow} (hr : r ∈ opcodeMap) {c : Command} (h : r.selects c.w0 = true) :
    decode (r.masked c) = decode c := by
  have hop := op_of_selects hr h
  have hop' := (op_masked hr c).trans hop
  simp only [opcodeMap, List.cons_append, List.nil_append, List.mem_cons, List.not_mem_nil, or_false] at hr
  rcases hr with rfl | rfl | rfl | rfl | rfl | rfl | rfl | rfl | rfl | rfl | rfl | rfl | rfl | rfl | rfl | rfl
  · rw [decode_of_op_nop hop, decode_of_op_nop hop']
  · rw [decode_of_op_emInit hop, decode_of_op_emInit hop', id_masked c (by decide), opA_masked c (by decide),
      count_masked c (by decide), count_masked c (by decide)]
  · rw [decode_of_op_emCfgEvent hop, decode_of_op_emCfgEvent hop', id_masked c (by decide), kind_masked c (by decide),
      idx_masked c (by decide), opA_masked c (by decide), opB_masked c (by decide)]
  · rw [decode_of_op_emTbSignal hop, decode_of_op_emTbSignal hop', id_masked c (by decide)]
  · rw [decode_of_op_emTick hop, decode_of_op_emTick hop', id_masked c (by decide)]
  iterate 2
    rw [decode_of_op_set hop, decode_of_op_set hop', id_masked c (by decide), kind_masked c (by decide),
      idx_masked c (by decide)]
  · rw [decode_of_op_itlkReset hop, decode_of_op_itlkReset hop', id_masked c (by decide), safe_masked c (by decide)]
  · rw [decode_of_op_wrState hop, decode_of_op_wrState hop', id_masked c (by decide), opA_masked c (by decide)]
  · rw [decode_of_op_tsConfig hop, decode_of_op_tsConfig hop', idx_masked c (by decide), opA_masked c (by decide),
      opB_masked c (by decide)]
  · rw [decode_of_op_tsStep hop, decode_of_op_tsStep hop', idx_masked c (by decide)]
  · rw [decode_of_op_rdLatch hop, decode_of_op_rdLatch hop', id_masked c (by decide), kind_masked c (by decide)]
  · rw [decode_of_op_rdModule hop, decode_of_op_rdModule hop', id_masked c (by decide)]
  · rw [decode_of_op_rdEvent hop, decode_of_op_rdEvent hop', id_masked c (by decide), kind_masked c (by decide),
      idx_masked c (by decide)]
  · rw [decode_of_op_rdEventCfg hop, decode_of_op_rdEventCfg hop', id_masked c (by decide), kind_masked c (by decide),
      idx_masked c (by decide)]
  · rw [decode_of_op_rdSlice hop, decode_of_op_rdSlice hop', idx_masked c (by decide)]

/-- The selecting bits are among those that agree. -/
theorem selects_congr {r : OpcodeRow} {v v' : Word} (h : v &&& (r.mask ||| r.readsW0) = v' &&& (r.mask ||| r.readsW0)) :
    r.selects v = r.selects v' := by
  have hsub : (r.mask ||| r.readsW0) &&& r.mask = r.mask := by
    ext i
    simp
    tauto
  rw [OpcodeRow.selects, OpcodeRow.selects, ← hsub, ← BitVec.and_assoc, ← BitVec.and_assoc, h]

/-! ### The bits that the encoder writes (R61) -/

/-- The rows of one mnemonic are the one at its place. -/
theorem row_eq_of_mnemonic {r : OpcodeRow} (hr : r ∈ opcodeMap) {n : Nat} (hn : n < opcodeMap.length)
    (h : opcodeMap[n].mnemonic = r.mnemonic) : r = opcodeMap[n] := by
  have hunique : ∀ x ∈ opcodeMap, ∀ y ∈ opcodeMap, x.mnemonic = y.mnemonic → y = x := by decide
  exact hunique _ (List.getElem_mem _) r hr h

/-- A header is 0 on a mask that leaves out OP and every field that is not written as 0. -/
theorem header_and_eq_zero {op id n idx : Nat} {m : Word} (hop : m.extractLsb' 24 8 = 0)
    (hid : id = 0 ∨ m.extractLsb' 20 4 = 0) (hn : n = 0 ∨ m.extractLsb' 19 1 = 0)
    (hidx : idx = 0 ∨ m.extractLsb' 8 8 = 0) : header op id n idx &&& m = 0 := by
  have hfields (a : BitVec 8) (b : BitVec 4) (c : BitVec 1) (d : BitVec 3) (e f : BitVec 8) :
      (BitVec.ofNat 8 op ++ BitVec.ofNat 4 id ++ BitVec.ofNat 1 n ++ 0#3 ++ BitVec.ofNat 8 idx ++ 0#8) &&&
          (a ++ b ++ c ++ d ++ e ++ f) =
        (BitVec.ofNat 8 op &&& a) ++ (BitVec.ofNat 4 id &&& b) ++ (BitVec.ofNat 1 n &&& c) ++ 0#3 ++
          (BitVec.ofNat 8 idx &&& e) ++ 0#8 := by
    simp only [BitVec.and_append, BitVec.zero_and]
  have hid' : BitVec.ofNat 4 id &&& m.extractLsb' 20 4 = 0 := by rcases hid with h | h <;> simp [h]
  have hn' : BitVec.ofNat 1 n &&& m.extractLsb' 19 1 = 0 := by rcases hn with h | h <;> simp [h]
  have hidx' : BitVec.ofNat 8 idx &&& m.extractLsb' 8 8 = 0 := by rcases hidx with h | h <;> simp [h]
  rw [word_eq_fields m]
  refine (hfields ..).trans ?_
  rw [hop, hid', hn', hidx']
  exact congrArg (fun x : BitVec 8 => x ++ 0#4 ++ 0#1 ++ 0#3 ++ 0#8 ++ 0#8) (BitVec.and_zero (x := BitVec.ofNat 8 op))

/-- The counts of EM_INIT are written in B[15:0] (R55). -/
theorem countsWord_and (nh ns : Nat) : countsWord nh ns &&& ~~~(0x0000FFFF : Word) = 0 := by
  have hcounts (a b : BitVec 8) : (0#16 ++ a ++ b) &&& (0xFFFF#16 ++ 0#8 ++ 0#8) = 0#32 := by
    rw [BitVec.and_append, BitVec.and_append, BitVec.zero_and, BitVec.and_zero, BitVec.and_zero]
    rfl
  exact hcounts ..

/-- The safe operand of ITLK_RESET is written in A[0] (R55). -/
theorem safe_and (safe : Bool) : (if safe then 1 else 0 : Word) &&& ~~~(0x00000001 : Word) = 0 := by
  cases safe <;> decide

/-- The words of a command are 0 outside the bits that a row selects by or reads. -/
def OpcodeRow.Covers (r : OpcodeRow) (c : Command) : Prop :=
  c.w0 &&& ~~~(r.mask ||| r.readsW0) = 0 ∧ c.w1 &&& ~~~r.readsA = 0 ∧ c.w2 &&& ~~~r.readsB = 0

/-- A word is 0 outside all of its bits. -/
theorem and_not_ones (v : Word) : v &&& ~~~(0xFFFFFFFF : Word) = 0 := BitVec.and_zero

/-- The encoder writes only bits that the command's own row selects by or reads (R61): of each header field, either 0 is
written or the row covers it. -/
theorem covers_encode {r : OpcodeRow} (hr : r ∈ opcodeMap) {i : Instr} (h : i.mnemonic = r.mnemonic) :
    r.Covers (encode i) := by
  have of_row (n : Nat) (hn : n < opcodeMap.length) (hm : opcodeMap[n].mnemonic = i.mnemonic)
      (hc : opcodeMap[n].Covers (encode i)) : r.Covers (encode i) := by
    rwa [row_eq_of_mnemonic hr hn (hm.trans h)]
  have hz {v : Word} : 0 &&& v = 0 := BitVec.zero_and
  cases i with
  | nop =>
    exact of_row 0 (by decide) rfl
      ⟨header_and_eq_zero (by decide) (.inl rfl) (.inl rfl) (.inl rfl), hz, hz⟩
  | emInit id f nh ns =>
    exact of_row 1 (by decide) rfl
      ⟨header_and_eq_zero (by decide) (.inr (by decide)) (.inl rfl) (.inl rfl), and_not_ones _, countsWord_and nh ns⟩
  | emCfgEvent id k i d r =>
    exact of_row 2 (by decide) rfl
      ⟨header_and_eq_zero (by decide) (.inr (by decide)) (.inr (by decide)) (.inr (by decide)), and_not_ones _,
        and_not_ones _⟩
  | emTbSignal id =>
    exact of_row 3 (by decide) rfl
      ⟨header_and_eq_zero (by decide) (.inr (by decide)) (.inl rfl) (.inl rfl), hz, hz⟩
  | emTick id =>
    exact of_row 4 (by decide) rfl
      ⟨header_and_eq_zero (by decide) (.inr (by decide)) (.inl rfl) (.inl rfl), hz, hz⟩
  | setHard id i =>
    exact of_row 5 (by decide) rfl
      ⟨header_and_eq_zero (by decide) (.inr (by decide)) (.inl rfl) (.inr (by decide)), hz, hz⟩
  | setSoft id i =>
    exact of_row 6 (by decide) rfl
      ⟨header_and_eq_zero (by decide) (.inr (by decide)) (.inr (by decide)) (.inr (by decide)), hz, hz⟩
  | itlkReset id safe =>
    exact of_row 7 (by decide) rfl
      ⟨header_and_eq_zero (by decide) (.inr (by decide)) (.inl rfl) (.inl rfl), safe_and safe, hz⟩
  | wrState id v =>
    exact of_row 8 (by decide) rfl
      ⟨header_and_eq_zero (by decide) (.inr (by decide)) (.inl rfl) (.inl rfl), and_not_ones _, hz⟩
  | tsConfig j t m =>
    exact of_row 9 (by decide) rfl
      ⟨header_and_eq_zero (by decide) (.inl rfl) (.inl rfl) (.inr (by decide)), and_not_ones _, and_not_ones _⟩
  | tsStep j =>
    exact of_row 10 (by decide) rfl
      ⟨header_and_eq_zero (by decide) (.inl rfl) (.inl rfl) (.inr (by decide)), hz, hz⟩
  | rdLatch id k =>
    exact of_row 11 (by decide) rfl
      ⟨header_and_eq_zero (by decide) (.inr (by decide)) (.inr (by decide)) (.inl rfl), hz, hz⟩
  | rdModule id =>
    exact of_row 12 (by decide) rfl
      ⟨header_and_eq_zero (by decide) (.inr (by decide)) (.inl rfl) (.inl rfl), hz, hz⟩
  | rdEvent id k i =>
    exact of_row 13 (by decide) rfl
      ⟨header_and_eq_zero (by decide) (.inr (by decide)) (.inr (by decide)) (.inr (by decide)), hz, hz⟩
  | rdEventCfg id k i =>
    exact of_row 14 (by decide) rfl
      ⟨header_and_eq_zero (by decide) (.inr (by decide)) (.inr (by decide)) (.inr (by decide)), hz, hz⟩
  | rdSlice j =>
    exact of_row 15 (by decide) rfl
      ⟨header_and_eq_zero (by decide) (.inl rfl) (.inl rfl) (.inr (by decide)), hz, hz⟩

/-- Settles O5: two commands that agree where a row looks are the same command once masked by the row, and decode as
they do masked. -/
theorem ignoredBitsHaveNoEffect : Obligations.IgnoredBitsHaveNoEffect := by
  refine ⟨fun r hr c c' hs h0 h1 h2 => ?_, fun r hr i h => covers_encode hr h, fun c h => decode_of_op_nop h⟩
  have hs' : r.selects c'.w0 = true := (selects_congr h0).symm.trans hs
  have hmasked : r.masked c = r.masked c' := by rw [OpcodeRow.masked, OpcodeRow.masked, h0, h1, h2]
  rw [← decode_masked hr hs, ← decode_masked hr hs', hmasked]

/-! ### Twelve bytes (R41, R42, R62) -/

/-- The four bytes of a word make it up. -/
theorem wordOfBytes_bytesOfWord (v : Word) :
    wordOfBytes (v.extractLsb' 0 8) (v.extractLsb' 8 8) (v.extractLsb' 16 8) (v.extractLsb' 24 8) = v := by
  apply BitVec.eq_of_getLsbD_eq
  intro i hi
  simp only [wordOfBytes, BitVec.getLsbD_append, BitVec.getLsbD_extractLsb']
  interval_cases i <;> simp

/-- The byte decoder takes the twelve bytes of a command and leaves what follows. -/
theorem ofBytes_bytes_append (c : Command) (rest : List Byte) : Command.ofBytes (c.bytes ++ rest) = some (c, rest) := by
  simp only [Command.bytes, bytesOfWord, List.cons_append, List.nil_append, Command.ofBytes, wordOfBytes_bytesOfWord]

/-- Fewer than twelve bytes are no command. -/
theorem ofBytes_of_short {bs : List Byte} (h : bs.length < 12) : Command.ofBytes bs = none := by
  unfold Command.ofBytes
  split
  case h_1 =>
    simp only [List.length_cons] at h
    omega
  case h_2 => rfl

/-- The byte decoder answers what the decoder does of the command it takes, with the bytes that follow. -/
theorem decodeBytes_of_decode_ok {bs rest : List Byte} {c : Command} {i : Instr}
    (h : Command.ofBytes bs = some (c, rest)) (hi : decode c = .ok i) : decodeBytes bs = .ok (i, rest) := by
  simp only [decodeBytes, h, hi]

theorem decodeBytes_of_decode_error {bs rest : List Byte} {c : Command} {e : DecodeError}
    (h : Command.ofBytes bs = some (c, rest)) (he : decode c = .error e) : decodeBytes bs = .error e := by
  simp only [decodeBytes, h, he]

/-- Where the bytes hold no command, the byte decoder answers how many there were. -/
theorem decodeBytes_of_incomplete {bs : List Byte} (h : Command.ofBytes bs = none) :
    decodeBytes bs = .error (.incomplete bs.length) := by
  simp only [decodeBytes, h]

/-- Settles O6, by what the byte decoder takes of a whole command and of a short one. -/
theorem commandsAreTwelveBytes : Obligations.CommandsAreTwelveBytes := by
  refine ⟨fun c rest => ⟨rfl, ?_⟩, fun bs h => ?_, fun c n hn => ?_⟩
  · cases hi : decode c with
    | ok i => exact decodeBytes_of_decode_ok (ofBytes_bytes_append c rest) hi
    | error e => exact decodeBytes_of_decode_error (ofBytes_bytes_append c rest) hi
  · exact decodeBytes_of_incomplete (ofBytes_of_short h)
  · interval_cases n <;> exact ⟨rfl, rfl, rfl⟩

/-! ### The spec's examples and the pseudo-instructions -/

/-- Settles O1: each example has the opcode of its row, and its fields are read off. -/
theorem specWordsDecode : Obligations.SpecWordsDecode := ⟨rfl, rfl, rfl, rfl, rfl, rfl, rfl⟩

/-- Settles O7: each is a line of the expansion, whatever the operands. -/
theorem pseudoInstructionsExpand : Obligations.PseudoInstructionsExpand :=
  fun _ _ => ⟨rfl, rfl, rfl, rfl, rfl, rfl, rfl⟩

end Sys2Proof
end

section
/-! PROOFS. Steps, ports and reset: what every step does with the ports and the held command (R127, R42, R120), what one
under `rst` does (R140), and the parameter sets (R13). -/

namespace Sys2Proof.Machine

/-! ### What the arbiter chooses (R127) -/

theorem chosen_eq_isr_iff {s : State} {c : Command} : s.chosen = some (.isr, c) ↔ s.presented0 = some c := by
  unfold State.chosen arbitrate
  cases s.presented0 <;> cases s.presented1 <;> simp

theorem chosen_eq_background_iff {s : State} {c : Command} :
    s.chosen = some (.background, c) ↔ s.presented0 = none ∧ s.presented1 = some c := by
  unfold State.chosen arbitrate
  cases s.presented0 <;> cases s.presented1 <;> simp

theorem chosen_eq_none_iff {s : State} : s.chosen = none ↔ s.presented0 = none ∧ s.presented1 = none := by
  unfold State.chosen arbitrate
  cases s.presented0 <;> cases s.presented1 <;> simp

theorem heldNext_of_some {s : State} {c : Command} (h : s.presented0 = some c) : s.heldNext = s.presented1 := by
  simp only [State.heldNext, h]

theorem heldNext_of_none {s : State} (h : s.presented0 = none) : s.heldNext = none := by
  simp only [State.heldNext, h]

theorem presented1_of_held {s : State} {c : Command} (h : s.held = some c) : s.presented1 = some c := by
  simp only [State.presented1, h]

theorem presented1_of_none {s : State} (h : s.held = none) :
    s.presented1 = (s.port1In.headD .nothing).whole := by
  simp only [State.presented1, h]

/-- Only a whole command is one (R42). -/
theorem whole_eq_some_iff {x : Presented} {c : Command} : x.whole = some c ↔ x = .command c := by
  cases x <;> simp [Presented.whole]

/-- A command presented stands at the head of the schedule. -/
theorem head?_of_whole {xs : List Presented} {c : Command} (h : (xs.headD .nothing).whole = some c) :
    xs.head? = some (.command c) := by
  cases xs with
  | nil => cases h
  | cons x xs => rw [List.head?_cons, ← whole_eq_some_iff.1 h, List.headD_cons]

/-! ### What every step does -/

/-- With legal parameters a step answers a next state (R121). -/
theorem exists_step {s : State} (hp : s.params.legal = true) : ∃ t, step s = .next t := by
  unfold step
  rw [if_pos hp]
  split
  · exact ⟨_, rfl⟩
  · split
    · exact ⟨_, rfl⟩
    · split
      · obtain ⟨t, ht, -⟩ := exec_next _ s.beginStep
        exact ⟨t, ht⟩
      · exact ⟨_, rfl⟩

/-- Without `rst` a step notes the command chosen, moves the inputs on and holds port 1's command if port 0 won. -/
structure MovesOn (s t : State) : Prop where
  params : t.params = s.params
  accepted : t.out.accepted = s.chosen
  held : t.held = s.heldNext
  rstIn : t.rstIn = s.rstIn.tail
  port0In : t.port0In = s.port0In.tail
  port1In : t.port1In = if s.held.isSome then s.port1In else s.port1In.tail

theorem movesOn_beginStep (s : State) : MovesOn s s.beginStep := ⟨rfl, rfl, rfl, rfl, rfl, rfl⟩

theorem step_movesOn {s t : State} (h : step s = .next t) (hrst : s.rstAsserted = false) : MovesOn s t := by
  rcases step_cases h with ⟨hrst', -⟩ | ⟨-, -, rfl⟩ | ⟨-, p, c, -, ⟨e, -, rfl⟩ | ⟨i, -, hexec⟩⟩
  · exact absurd (hrst.symm.trans hrst') (by decide)
  · exact movesOn_beginStep s
  · exact ⟨rfl, rfl, rfl, rfl, rfl, rfl⟩
  · obtain ⟨t', ht', hparams, hheld, hrstIn, hport0, hport1, haccepted, -⟩ := exec_next i s.beginStep
    cases ht'.symm.trans hexec
    exact ⟨hparams, haccepted, hheld, hrstIn, hport0, hport1⟩

theorem step_of_rst {s : State} (hp : s.params.legal = true) (hrst : s.rstAsserted = true) :
    step s = .next s.resetStep :=
  (if_pos hp).trans (if_pos hrst)

theorem step_of_chosen_none {s : State} (hp : s.params.legal = true) (hrst : s.rstAsserted = false)
    (hc : s.chosen = none) : step s = .next s.beginStep := by
  simp [step, hp, hrst, hc]

theorem step_of_decode_ok {s : State} {p : Port} {c : Command} {i : Instr} (hp : s.params.legal = true)
    (hrst : s.rstAsserted = false) (hc : s.chosen = some (p, c)) (hd : decode c = .ok i) :
    step s = exec i s.beginStep := by
  simp [step, hp, hrst, hc, hd]

/-- Settles O12: every step of `step_cases` keeps the parameters. -/
theorem noStepStops : Obligations.NoStepStops := by
  intro s hp
  obtain ⟨t, ht⟩ := exists_step hp
  refine ⟨t, ht, ?_⟩
  cases hrst : s.rstAsserted with
  | false => exact (step_movesOn ht hrst).params
  | true =>
    cases (step_of_rst hp hrst).symm.trans ht
    exact State.resetStep_params s

/-- Settles O8: the begun step moves the inputs on and writes no register. -/
theorem stepRunsTheDecodedCommand : Obligations.StepRunsTheDecodedCommand := by
  intro s p c i hp hrst hc hd
  refine ⟨step_of_decode_ok hp hrst hc hd, rfl, read_beginStep s, ?_, ?_, rfl, rfl, ?_⟩
  · exact congrArg (StepOutput.mk · none []) hc
  · cases p with
    | isr => exact heldNext_of_some (chosen_eq_isr_iff.1 hc)
    | background => exact heldNext_of_none (chosen_eq_background_iff.1 hc).1
  · rw [State.beginStep_port1In]
    cases s.held <;> rfl

/-- Settles O9: the command accepted is the one the arbiter chooses, and what is held next depends on port 0 alone. -/
theorem arbiterTakesPortZeroFirst : Obligations.ArbiterTakesPortZeroFirst := by
  intro s hp hrst
  obtain ⟨t, ht⟩ := exists_step hp
  have hmoves := step_movesOn ht hrst
  refine ⟨fun c0 c1 h0 h1 => ⟨t, ht, ?_, ?_⟩, fun c0 h0 h1 => ⟨t, ht, ?_, ?_⟩, fun c1 h0 h1 => ⟨t, ht, ?_, ?_⟩,
    fun h0 h1 => ?_⟩
  · exact hmoves.accepted.trans (chosen_eq_isr_iff.2 h0)
  · exact hmoves.held.trans ((heldNext_of_some h0).trans h1)
  · exact hmoves.accepted.trans (chosen_eq_isr_iff.2 h0)
  · exact hmoves.held.trans ((heldNext_of_some h0).trans h1)
  · exact hmoves.accepted.trans (chosen_eq_background_iff.2 ⟨h0, h1⟩)
  · exact hmoves.held.trans (heldNext_of_none h0)
  · have hnone := chosen_eq_none_iff.2 ⟨h0, h1⟩
    exact ⟨_, step_of_chosen_none hp hrst hnone, congrArg (StepOutput.mk · none []) hnone, heldNext_of_none h0,
      read_beginStep s⟩

/-- The command a step has accepted is the one chosen; a step under `rst` accepts none. -/
theorem chosen_of_accepted {s t : State} (h : step s = .next t) {a : Port × Command} (ha : t.out.accepted = some a) :
    s.chosen = some a := by
  rcases step_cases h with ⟨-, rfl⟩ | ⟨hrst, -⟩ | ⟨hrst, -⟩
  · cases ha
  · exact (step_movesOn h hrst).accepted.symm.trans ha
  · exact (step_movesOn h hrst).accepted.symm.trans ha

/-- Settles O10: what is chosen is presented whole, and a step that chooses nothing is the begun step. -/
theorem onlyWholeCommandsAreTaken : Obligations.OnlyWholeCommandsAreTaken := by
  intro s t h
  refine ⟨fun c ha => ?_, fun c ha => ?_, fun hnone hrst => ?_⟩
  · exact head?_of_whole (chosen_eq_isr_iff.1 (chosen_of_accepted h ha))
  · obtain ⟨-, h1⟩ := chosen_eq_background_iff.1 (chosen_of_accepted h ha)
    cases hheld : s.held with
    | none => exact .inr ⟨rfl, head?_of_whole ((presented1_of_none hheld).symm.trans h1)⟩
    | some c' => exact .inl ((presented1_of_held hheld).symm.trans h1)
  · rw [(step_movesOn h hrst).accepted] at hnone
    rcases step_cases h with ⟨hrst', -⟩ | ⟨-, -, rfl⟩ | ⟨-, p, c, hsome, -⟩
    · exact absurd (hrst.symm.trans hrst') (by decide)
    · exact ⟨rfl, rfl, read_beginStep s⟩
    · cases hnone.symm.trans hsome

/-! ### Responses (R66, R120) -/

/-- A response with both results 0 when the status is not OK (R66). -/
def Response.Proper (x : Response) : Prop := x.status ≠ .ok → x.a = 0 ∧ x.b = 0

/-- Every command responds: OK, or RANGE with both results 0 (R121). -/
theorem exec_response {i : Instr} {s t : State} (h : exec i s = .next t) :
    ∃ x, t.out.response = some x ∧ x.Proper := by
  cases hrange : rangeFails s i with
  | true =>
    cases (exec_of_rangeFails hrange).symm.trans h
    exact ⟨_, rfl, fun _ => ⟨rfl, rfl⟩⟩
  | false =>
    obtain ⟨t', a, b, ht', hresponds⟩ := exec_answersOk hrange
    cases ht'.symm.trans h
    exact ⟨_, hresponds, fun hne => absurd rfl hne⟩

/-- A step that accepts a command responds, and one that accepts none does not. -/
theorem step_response {s t : State} (h : step s = .next t) :
    (t.out.accepted = none ∧ t.out.response = none) ∨
      ∃ a x, t.out.accepted = some a ∧ t.out.response = some x ∧ x.Proper := by
  rcases step_cases h with ⟨-, rfl⟩ | ⟨-, hnone, rfl⟩ | ⟨hrst, p, c, hsome, hcommand⟩
  · exact .inl ⟨rfl, rfl⟩
  · exact .inl ⟨hnone, rfl⟩
  · have haccepted := (step_movesOn h hrst).accepted.trans hsome
    rcases hcommand with ⟨e, -, rfl⟩ | ⟨i, -, hexec⟩
    · exact .inr ⟨_, _, haccepted, rfl, fun _ => ⟨rfl, rfl⟩⟩
    · obtain ⟨x, hx, hproper⟩ := exec_response hexec
      exact .inr ⟨_, x, haccepted, hx, hproper⟩

/-- The words of a proper response (R66). -/
theorem Response.Proper.words {x : Response} (h : x.Proper) :
    (x.words.1 = 0 ∨ x.words.1 = 1 ∨ x.words.1 = 2) ∧ (x.words.1 ≠ 0 → x.words.2.1 = 0 ∧ x.words.2.2 = 0) := by
  obtain ⟨status, a, b⟩ := x
  cases status with
  | ok => exact ⟨.inl rfl, fun hne => absurd rfl hne⟩
  | range => exact ⟨.inr (.inl rfl), fun _ => h nofun⟩
  | illegal => exact ⟨.inr (.inr rfl), fun _ => h nofun⟩

theorem responseTo_of_none {t : State} (h : t.out.accepted = none) (p : Port) : t.responseTo p = none := by
  simp only [State.responseTo, h]

theorem responseTo_of_some {t : State} {q : Port} {c : Command} (h : t.out.accepted = some (q, c)) (p : Port) :
    t.responseTo p = if q = p then t.out.response else none := by
  simp only [State.responseTo, h]

/-- Settles O13: the response goes where the accepted command came from. -/
theorem oneResponsePerCommand : Obligations.OneResponsePerCommand := by
  intro s t h
  rcases step_response h with ⟨ha, hr⟩ | ⟨⟨q, c⟩, x, ha, hr, hproper⟩
  · refine ⟨by rw [ha, hr]; rfl, fun p => ?_, fun p y hy => ?_⟩
    · rw [responseTo_of_none ha, ha]
      exact ⟨nofun, nofun⟩
    · cases (responseTo_of_none ha p).symm.trans hy
  · refine ⟨by rw [ha, hr]; rfl, fun p => ?_, fun p y hy => ?_⟩
    · rw [responseTo_of_some ha, ha, hr]
      by_cases hq : q = p <;> simp [hq]
    · rw [responseTo_of_some ha, hr] at hy
      split at hy <;> cases hy
      exact hproper.words

/-! ### Reset and the parameters -/

/-- Settles O14: the step has the registers of the reset state. -/
theorem assertedResetDiscardsAndResets : Obligations.AssertedResetDiscardsAndResets := fun _ hp hrst =>
  ⟨_, step_of_rst hp hrst, rfl, rfl, rfl, read_congr (fun _ => rfl) fun _ => rfl⟩

/-- Settles O16, by what the check of a parameter set looks at. -/
theorem parameterConstraintsAreChecked : Obligations.ParameterConstraintsAreChecked :=
  ⟨legal_iff, fun _ hp => if_neg (Bool.eq_false_iff.1 hp), by decide⟩

/-! ### Any number of steps -/

theorem stepAll_succ {n : Nat} {s t : State} (h : step s = .next t) : stepAll (n + 1) s = stepAll n t := by
  rw [stepAll.eq_def]
  simp only [h]

theorem trace_succ {n : Nat} {s t : State} (h : step s = .next t) :
    trace (n + 1) s = t.out.observe ++ trace n t := by
  rw [trace.eq_def]
  simp only [h]

/-- No entry of the schedule asserts `rst`: neither does this step, and what is left of the schedule is as good. -/
theorem rst_of_schedule {s : State} (h : ∀ b ∈ s.rstIn, b = false) :
    s.rstAsserted = false ∧ ∀ b ∈ s.rstIn.tail, b = false := by
  refine ⟨?_, fun b hb => h b (List.mem_of_mem_tail hb)⟩
  unfold State.rstAsserted
  cases hrst : s.rstIn with
  | nil => rfl
  | cons b bs => exact h b (by simp [hrst])

theorem acceptedFrom_append (p : Port) (xs ys : List Observation) :
    acceptedFrom p (xs ++ ys) = acceptedFrom p xs ++ acceptedFrom p ys := List.filterMap_append

/-- What one step accepts from port 0 is what port 0 presents. -/
theorem acceptedFrom_isr_observe {s t : State} (h : MovesOn s t) :
    acceptedFrom .isr t.out.observe = s.presented0.toList := by
  simp only [acceptedFrom, StepOutput.observe, h.accepted, State.chosen, arbitrate]
  cases s.presented0 <;> cases s.presented1 <;> rfl

/-- What one step accepts from port 1 and what it holds is what port 1 presents. -/
theorem acceptedFrom_background_observe {s t : State} (h : MovesOn s t) :
    acceptedFrom .background t.out.observe ++ t.held.toList = s.presented1.toList := by
  simp only [acceptedFrom, StepOutput.observe, h.accepted, h.held, State.chosen, State.heldNext, arbitrate]
  cases s.presented0 <;> cases s.presented1 <;> rfl

/-- The whole commands of a schedule: the one at its head, if there is one, and those of the rest. -/
theorem filterMap_whole_eq (xs : List Presented) :
    xs.filterMap Presented.whole = (xs.headD .nothing).whole.toList ++ xs.tail.filterMap Presented.whole := by
  cases xs with
  | nil => rfl
  | cons x xs => cases hx : x.whole <;> simp [hx]

/-- What port 1 has: what it presents, and what its schedule still has after the step. -/
theorem port1_eq {s t : State} (h : MovesOn s t) :
    s.presented1.toList ++ t.port1In.filterMap Presented.whole =
      s.held.toList ++ s.port1In.filterMap Presented.whole := by
  rw [h.port1In]
  cases hheld : s.held with
  | none =>
    rw [presented1_of_none hheld]
    exact (filterMap_whole_eq s.port1In).symm
  | some c =>
    rw [presented1_of_held hheld]
    rfl

/-- Settles O17: each step moves what a port presents from the port to the observation, or keeps it held. -/
theorem portsKeepTheirCommandsInOrder : Obligations.PortsKeepTheirCommandsInOrder := by
  intro n
  induction n with
  | zero =>
    intro s t _ _ h
    cases h
    exact ⟨rfl, rfl⟩
  | succ n ih =>
    intro s u hp hrst h
    obtain ⟨t, ht⟩ := exists_step hp
    obtain ⟨hnow, hlater⟩ := rst_of_schedule hrst
    have hmoves := step_movesOn ht hnow
    rw [stepAll_succ ht] at h
    obtain ⟨hisr, hbackground⟩ := ih t u (hmoves.params ▸ hp) (hmoves.rstIn ▸ hlater) h
    rw [trace_succ ht, acceptedFrom_append, acceptedFrom_append, List.append_assoc, List.append_assoc, hisr,
      hbackground]
    constructor
    · rw [acceptedFrom_isr_observe hmoves, hmoves.port0In]
      exact (filterMap_whole_eq s.port0In).symm
    · rw [← List.append_assoc, acceptedFrom_background_observe hmoves, port1_eq hmoves]

/-- Settles O18: while port 0 presents, each step takes its command and holds port 1's again. -/
theorem busyPortZeroStarvesPortOne : Obligations.BusyPortZeroStarvesPortOne := by
  intro n s c cs hp hrst hheld hlen hport0
  induction cs generalizing n s with
  | nil =>
    subst hlen
    exact ⟨s, rfl, rfl, rfl, hheld⟩
  | cons c0 cs ih =>
    subst hlen
    obtain ⟨t, ht⟩ := exists_step hp
    obtain ⟨hnow, hlater⟩ := rst_of_schedule hrst
    have hmoves := step_movesOn ht hnow
    have h0 : s.presented0 = some c0 := by simp [State.presented0, hport0, Presented.whole]
    have h1 := presented1_of_held hheld
    have hheld' : t.held = some c := hmoves.held.trans ((heldNext_of_some h0).trans h1)
    obtain ⟨u, hu, hbackground, hisr, hstays⟩ := ih cs.length t (hmoves.params ▸ hp) (hmoves.rstIn ▸ hlater) hheld' rfl
      (by rw [hmoves.port0In, hport0]; rfl)
    have hnone : acceptedFrom .background t.out.observe = [] := by
      simpa [hheld', h1] using acceptedFrom_background_observe hmoves
    refine ⟨u, (stepAll_succ ht).trans hu, ?_, ?_, hstays⟩
    · rw [List.length_cons, trace_succ ht, acceptedFrom_append, hbackground, hnone]
      rfl
    · rw [List.length_cons, trace_succ ht, acceptedFrom_append, hisr, acceptedFrom_isr_observe hmoves, h0]
      rfl

end Sys2Proof.Machine
end

section
/-! PROOFS. What a command can do, said once; the invariant of the registers, which every step keeps (R25, R30), and the
written-by column of the access table (R35). -/

namespace Sys2Proof.Machine

/-! ### The outcomes of a command -/

/-- What a command can do in a state, one constructor for each outcome of its rule (R75 to R114); the words of the
response stand in the rules of the single commands. -/
inductive Effect (s : State) : Instr → State → Prop where
  /-- The response alone: a read-back, NOP, an EM_TICK that finds no period, or RANGE. -/
  | respond (c : Instr) (st : Status) (a b : Word) : Effect s c (s.respond st a b)
  | init {id : Nat} (f nh ns : Nat) (a b : Word) (hid : id < s.params.M) :
    Effect s (.emInit id f nh ns) ((s.setMod id ((s.mod id).init s.params f nh ns)).respond .ok a b)
  | configure {id : Nat} (k : Kind) {i : Nat} (d r : Nat) (a b : Word) (hid : id < s.params.M) (hi : i < s.params.E) :
    Effect s (.emCfgEvent id k i d r)
      ((s.setEvent id k i (Event.configured s.params (s.read (.freq id)) d r)).respond .ok a b)
  | signal {id : Nat} (a b : Word) (hid : id < s.params.M) :
    Effect s (.emTbSignal id) ((s.setMod id { s.mod id with tbFlag := true }).respond .ok a b)
  | tick {id : Nat} (a b : Word) (hid : id < s.params.M) (htb : s.read (.tbFlag id) = 1) :
    Effect s (.emTick id) ((s.setMod id (s.mod id).ticked).respond .ok a b)
  | pend {id : Nat} {k : Kind} {i : Nat} (a b : Word) (hid : id < s.params.M) (hi : i < s.read (.num id k))
    (h : s.read (.counter id k i) < s.read (.debounceCount id k i)) :
    Effect s (setCommand id k i) ((s.setEvent id k i { s.event id k i with flag := true }).respond .ok a b)
  | latch {id : Nat} {k : Kind} {i : Nat} (a b : Word) (hid : id < s.params.M) (hi : i < s.read (.num id k))
    (h : s.read (.debounceCount id k i) ≤ s.read (.counter id k i)) (hl : s.latchBit id k i = false) :
    Effect s (setCommand id k i) (((s.takeLatch id k i).setEvent id k i (s.event id k i).cleared).respond .ok a b)
  | clear {id : Nat} {k : Kind} {i : Nat} (a b : Word) (hid : id < s.params.M) (hi : i < s.read (.num id k))
    (h : s.read (.debounceCount id k i) ≤ s.read (.counter id k i)) (hl : s.latchBit id k i = true) :
    Effect s (setCommand id k i) ((s.setEvent id k i (s.event id k i).cleared).respond .ok a b)
  | unlatch {id : Nat} (safe : Bool) (a b : Word) (hid : id < s.params.M) :
    Effect s (.itlkReset id safe) ((s.leaveLatch id safe).respond .ok a b)
  | writeState {id v : Nat} (a b : Word) (hid : id < s.params.M) (hv : v < 2 ^ SW) :
    Effect s (.wrState id v) ((s.setOpState id (BitVec.ofNat SW v)).respond .ok a b)
  | configureSlice {j : Nat} (t m : Nat) (a b : Word) (hj : j < s.params.S) :
    Effect s (.tsConfig j t m) ((s.setSlice j (Slice.configured s.params t m)).respond .ok a b)
  | stepSlice {j : Nat} (a b : Word) (hj : j < s.params.S) :
    Effect s (.tsStep j) ((s.setSlice j (s.slice j).stepped).respond .ok a b)

/-- The outcomes of the set procedure (R86). -/
theorem effect_setProcedure {s : State} {id : Nat} {k : Kind} {i : Nat} (hid : id < s.params.M)
    (hi : i < s.read (.num id k)) : Effect s (setCommand id k i) (s.setProcedure id k i) := by
  rcases Nat.lt_or_ge (s.read (.counter id k i)) (s.read (.debounceCount id k i)) with hlt | hle
  · rw [setProcedure_of_lt hid hi hlt]
    exact .pend _ _ hid hi hlt
  · cases hl : s.latchBit id k i with
    | false =>
      rw [setProcedure_of_le_of_clear hid hi hle hl]
      exact .latch _ _ hid hi hle hl
    | true =>
      rw [setProcedure_of_le_of_set hid hi hle hl]
      exact .clear _ _ hid hi hle hl

/-- A command that passes its range checks has one of its own outcomes. -/
theorem exists_effect_of_range {c : Instr} {s : State} (h : rangeFails s c = false) :
    ∃ t, exec c s = .next t ∧ Effect s c t := by
  cases c with
  | nop => exact ⟨_, exec_nop s, .respond ..⟩
  | emInit id f nh ns =>
    have hid : id < s.params.M := by simpa [rangeFails, Instr.module, Instr.slice] using h
    exact ⟨_, exec_emInit hid f nh ns, .init f nh ns _ _ hid⟩
  | emCfgEvent id k i d r =>
    obtain ⟨hid, hi⟩ : id < s.params.M ∧ i < s.params.E := by
      simpa [rangeFails, Instr.module, Instr.slice] using h
    exact ⟨_, exec_emCfgEvent hid hi k d r, .configure k d r _ _ hid hi⟩
  | emTbSignal id =>
    have hid : id < s.params.M := by simpa [rangeFails, Instr.module, Instr.slice] using h
    exact ⟨_, exec_emTbSignal hid, .signal _ _ hid⟩
  | emTick id =>
    have hid : id < s.params.M := by simpa [rangeFails, Instr.module, Instr.slice] using h
    cases htb : (s.mod id).tbFlag with
    | false => exact ⟨_, exec_emTick_of_clear hid (bitOf_eq_zero.2 htb), .respond ..⟩
    | true => exact ⟨_, exec_emTick_of_set hid (bitOf_eq_one.2 htb), .tick _ _ hid (bitOf_eq_one.2 htb)⟩
  | setHard id i =>
    obtain ⟨hid, hi⟩ : id < s.params.M ∧ i < s.read (.num id .hard) := by
      simpa [rangeFails, Instr.module, Instr.slice] using h
    exact ⟨_, rfl, effect_setProcedure hid hi⟩
  | setSoft id i =>
    obtain ⟨hid, hi⟩ : id < s.params.M ∧ i < s.read (.num id .soft) := by
      simpa [rangeFails, Instr.module, Instr.slice] using h
    exact ⟨_, rfl, effect_setProcedure hid hi⟩
  | itlkReset id safe =>
    have hid : id < s.params.M := by simpa [rangeFails, Instr.module, Instr.slice] using h
    exact ⟨_, exec_itlkReset hid safe, .unlatch safe _ _ hid⟩
  | wrState id v =>
    obtain ⟨hid, hv⟩ : id < s.params.M ∧ v < 2 ^ SW := by
      simpa [rangeFails, Instr.module, Instr.slice] using h
    exact ⟨_, exec_wrState hid hv, .writeState _ _ hid hv⟩
  | tsConfig j t m =>
    have hj : j < s.params.S := by simpa [rangeFails, Instr.module, Instr.slice] using h
    exact ⟨_, exec_tsConfig hj t m, .configureSlice t m _ _ hj⟩
  | tsStep j =>
    have hj : j < s.params.S := by simpa [rangeFails, Instr.module, Instr.slice] using h
    exact ⟨_, exec_tsStep hj, .stepSlice _ _ hj⟩
  | rdLatch id k =>
    have hid : id < s.params.M := by simpa [rangeFails, Instr.module, Instr.slice] using h
    exact ⟨_, exec_rdLatch hid k, .respond ..⟩
  | rdModule id =>
    have hid : id < s.params.M := by simpa [rangeFails, Instr.module, Instr.slice] using h
    exact ⟨_, exec_rdModule hid, .respond ..⟩
  | rdEvent id k i =>
    obtain ⟨hid, hi⟩ : id < s.params.M ∧ i < s.params.E := by
      simpa [rangeFails, Instr.module, Instr.slice] using h
    exact ⟨_, exec_rdEvent hid hi k, .respond ..⟩
  | rdEventCfg id k i =>
    obtain ⟨hid, hi⟩ : id < s.params.M ∧ i < s.params.E := by
      simpa [rangeFails, Instr.module, Instr.slice] using h
    exact ⟨_, exec_rdEventCfg hid hi k, .respond ..⟩
  | rdSlice j =>
    have hj : j < s.params.S := by simpa [rangeFails, Instr.module, Instr.slice] using h
    exact ⟨_, exec_rdSlice hj, .respond ..⟩

/-- The inversion of `exec`: what a command does is one of its outcomes. -/
theorem exec_effect {c : Instr} {s t : State} (h : exec c s = .next t) : Effect s c t := by
  cases hrange : rangeFails s c with
  | true =>
    cases (exec_of_rangeFails hrange).symm.trans h
    exact .respond c .range 0 0
  | false =>
    obtain ⟨t', ht', heffect⟩ := exists_effect_of_range hrange
    cases ht'.symm.trans h
    exact heffect

/-! ### The invariant of a module and of a slice -/

/-- An initialised module is in order (R75, R76). -/
theorem ModuleRegs.init_ok {p : Params} (hp : p.legal = true) {m : ModuleRegs} (h : m.ok p) {f : Nat} (hf : f < 2 ^ 32)
    (nh ns : Nat) : (m.init p f nh ns).ok p := by
  obtain ⟨-, -, ⟨-, -, hlatchH, -⟩, -, -, hlatchS, -⟩ := h
  obtain ⟨hlo, hhi⟩ := fEff_bounds hp f
  have hfreq : (BitVec.ofNat 32 (fEff p f)).toNat = fEff p f := toNat_ofNat_of_lt (fEff_lt hf)
  have hnum (n : Nat) : (BitVec.ofNat 6 (min n p.E)).toNat ≤ p.E :=
    (toNat_num_of_legal hp n).trans_le (Nat.min_le_right ..)
  simp only [ModuleRegs.ok, ModuleRegs.init, hfreq]
  exact ⟨hlo, hhi, bankOk_default hp hlo hhi (hnum nh) hlatchH, bankOk_default hp hlo hhi (hnum ns) hlatchS⟩

/-- A ticked module is in order (R82). -/
theorem ModuleRegs.ticked_ok {p : Params} {m : ModuleRegs} (h : m.ok p) : m.ticked.ok p := by
  obtain ⟨hlo, hhi, hhard, hsoft⟩ := h
  exact ⟨hlo, hhi, bankOk_tick hhard, bankOk_tick hsoft⟩

/-- The latch registers and the state may be written with anything that has no bit from `E` up (R28). -/
theorem ModuleRegs.latch_ok {p : Params} {m : ModuleRegs} (h : m.ok p) {l : ByKind (BitVec 32)}
    (hl : ∀ k, (l.get k).toNat < 2 ^ p.E) (v : BitVec SW) :
    ({ m with latch := l, opState := v } : ModuleRegs).ok p := by
  rw [ModuleRegs.ok_iff] at *
  obtain ⟨hlo, hhi, hbanks⟩ := h
  refine ⟨hlo, hhi, fun k => ?_⟩
  obtain ⟨hn, hlen, -, hevents⟩ := hbanks k
  exact ⟨hn, hlen, hl k, hevents⟩

/-- The record that EM_CFG_EVENT stores is in order (R77, R25). -/
theorem Event.configured_ok {p : Params} (hp : p.legal = true) {f : Nat} (h1 : 1 ≤ f) (h2 : f ≤ p.fMax) (d r : Nat) :
    (Event.configured p f d r).ok p f := by
  obtain ⟨hdc, hrc⟩ := Event.configured_counts hp h1 h2 d r
  obtain ⟨hceil, hlt, hmax, -⟩ := counts_bounds hp h1 h2 d r
  refine ⟨fun _ => rfl, ?_, by omega, by omega, by omega⟩
  exact (Nat.zero_le _).trans_lt (hlt.trans_eq hrc.symm)

/-- A configured slice is in order (R100, R101). -/
theorem Slice.configured_ok {p : Params} (hp : p.legal = true) (t m : Nat) : (Slice.configured p t m).ok p := by
  obtain ⟨hlo, hhi, hfit⟩ := divisor_bounds hp t m
  have hn : (Slice.configured p t m).n.toNat = divisor p t m := toNat_ofNat_of_lt hfit
  exact ⟨hlo.trans_eq hn.symm, hn.trans_le hhi⟩

/-- A stepped slice is in order (R102). -/
theorem Slice.stepped_ok {p : Params} {x : Slice} (h : x.ok p) : x.stepped.ok p := by
  obtain ⟨hlt, hmax⟩ := h
  refine ⟨?_, hmax⟩
  have hn : x.stepped.n = x.n := rfl
  rw [x.toNat_stepped_counter, hn]
  split <;> omega

/-! ### Every command keeps the invariant -/

theorem State.Inv.setEvent {s : State} (h : s.Inv) {id : Nat} (hid : id < s.params.M) {k : Kind} {i : Nat} {e : Event}
    (he : e.ok s.params (s.mod id).freq.toNat) (hi : s.num id k ≤ i → e.flag = false) : (s.setEvent id k i e).Inv :=
  h.setMod id (ModuleRegs.setEvent_ok (h.mod_ok hid) he hi)

/-- A new latch sets a bit below `E` (R86, R129). -/
theorem State.Inv.takeLatch {s : State} (h : s.Inv) {id : Nat} (hid : id < s.params.M) (k : Kind) {i : Nat}
    (hi : i < s.params.E) : (s.takeLatch id k i).Inv := by
  obtain ⟨-, -, -, hE, -⟩ := (legal_iff s.params).1 h.1
  refine (h.emitTurnOff id).setMod id ?_
  refine ModuleRegs.latch_ok (h.mod_ok hid) (fun k' => ?_) stateInterlock
  rw [ByKind.get_set]
  split
  · exact latch_or_lt (h.latch_lt hid k) hi hE
  · exact h.latch_lt hid k'

theorem State.Inv.leaveLatch {s : State} (h : s.Inv) {id : Nat} (hid : id < s.params.M) (safe : Bool) :
    (s.leaveLatch id safe).Inv :=
  h.setMod id (ModuleRegs.latch_ok (h.mod_ok hid) (fun k => by cases k <;> exact Nat.two_pow_pos _) _)

/-- Every command keeps the invariant, if the frequency of an EM_INIT fits its word. -/
theorem exec_inv_of_freq {c : Instr} {s t : State} (hs : s.Inv)
    (hfreq : ∀ id f nh ns, c = .emInit id f nh ns → f < 2 ^ 32) (h : exec c s = .next t) : t.Inv := by
  cases exec_effect h with
  | respond c st a b => exact hs.respond st a b
  | init f nh ns a b hid =>
    exact (hs.setMod _ (ModuleRegs.init_ok hs.1 (hs.mod_ok hid) (hfreq _ f nh ns rfl) nh ns)).respond ..
  | configure k d r a b hid hi =>
    obtain ⟨h1, h2, -⟩ := hs.mod_ok hid
    exact (hs.setEvent hid (Event.configured_ok hs.1 h1 h2 d r) fun _ => rfl).respond ..
  | signal a b hid =>
    refine (hs.setMod _ ?_).respond ..
    exact hs.mod_ok hid
  | tick a b hid htb => exact (hs.setMod _ (ModuleRegs.ticked_ok (hs.mod_ok hid))).respond ..
  | pend a b hid hi h =>
    exact (hs.setEvent hid (Event.flagged_ok (hs.event_ok hid ..)) fun hle => absurd hi (Nat.not_lt.2 hle)).respond ..
  | @latch id k i a b hid hi h hl =>
    have hfreq : ((s.takeLatch id k i).mod id).freq = (s.mod id).freq := by rw [mod_takeLatch (hs.mod_lt hid)]
    refine (((hs.takeLatch hid k (hi.trans_le (hs.num_le hid k))).setEvent hid ?_ fun _ => rfl).respond ..)
    rw [hfreq]
    exact Event.cleared_ok (hs.event_ok hid k i)
  | clear a b hid hi h hl => exact (hs.setEvent hid (Event.cleared_ok (hs.event_ok hid ..)) fun _ => rfl).respond ..
  | unlatch safe a b hid => exact (hs.leaveLatch hid safe).respond ..
  | writeState a b hid hv =>
    refine (hs.setMod _ ?_).respond ..
    exact hs.mod_ok hid
  | configureSlice t m a b hj => exact (hs.setSlice _ (Slice.configured_ok hs.1 t m)).respond ..
  | stepSlice a b hj => exact (hs.setSlice _ (Slice.stepped_ok (hs.slice_ok hj))).respond ..

/-- Every encodable command keeps the invariant. -/
theorem exec_inv {c : Instr} {s t : State} (hs : s.Inv) (hwf : c.wf = true) (h : exec c s = .next t) : t.Inv := by
  refine exec_inv_of_freq hs (fun id f nh ns hc => ?_) h
  subst hc
  obtain ⟨⟨⟨-, hf⟩, -⟩, -⟩ := by simpa only [Instr.wf, wordFits, Bool.and_eq_true, decide_eq_true_eq] using hwf
  exact hf

theorem setProcedure_inv {s : State} (hs : s.Inv) (id : Nat) (k : Kind) (i : Nat) : (s.setProcedure id k i).Inv :=
  exec_inv_of_freq hs (fun _ _ _ _ hc => by cases k <;> cases hc) (exec_setCommand id k i s)

/-- Settles O19: the default parameters are legal. -/
theorem resetMeetsTheInvariant : Obligations.ResetMeetsTheInvariant :=
  State.inv_resetWith (by decide)

/-- Settles O20: a step resets, responds, or executes a command that the decoder answers, which is encodable. -/
theorem stepKeepsInvariant : Obligations.StepKeepsInvariant := by
  intro s t hs h
  rcases step_cases h with ⟨-, rfl⟩ | ⟨-, -, rfl⟩ | ⟨-, p, c, -, ⟨-, -, rfl⟩ | ⟨i, hd, hexec⟩⟩
  · exact (State.inv_resetWith hs.1).of_registers rfl rfl rfl
  · exact hs.beginStep
  · exact hs.beginStep.respond ..
  · exact exec_inv hs.beginStep (decodedCommandsAreEncodable c i hd) hexec

/-! ### What no command writes (R35) -/

/-- A register that a command does not write is not one that it writes. -/
theorem Reg.ne_of_unwritten {r r' : Reg} {c : Instr} (h : r.writtenBy c = false) (h' : r'.writtenBy c = true) :
    r ≠ r' := by
  rintro rfl
  exact absurd (h.symm.trans h') (by decide)

/-- SET writes the flag, the counter, the latch register and the state (R35). -/
theorem writtenBy_setCommand (id : Nat) (k : Kind) (i : Nat) :
    (Reg.flag id k i).writtenBy (setCommand id k i) = true ∧
      (Reg.counter id k i).writtenBy (setCommand id k i) = true ∧
      (Reg.latch id k).writtenBy (setCommand id k i) = true ∧
      (Reg.opState id).writtenBy (setCommand id k i) = true := by
  cases k <;> simp [setCommand, Reg.writtenBy]

theorem writtenBy_emInit {r : Reg} {id : Nat} (h : r.InitWrites id) (f nh ns : Nat) :
    r.writtenBy (.emInit id f nh ns) = true := by
  rcases h with rfl | ⟨k, rfl⟩ | rfl | ⟨k, i, rfl | rfl | rfl | rfl⟩ <;> simp [Reg.writtenBy]

theorem writtenBy_emTick {s : State} {r : Reg} {id : Nat} (h : r.TickWrites s id) :
    r.writtenBy (.emTick id) = true := by
  rcases h with rfl | ⟨k, i, -, -, rfl | rfl⟩ <;> simp [Reg.writtenBy]

/-- The written event record reads back, or there is no such record and nothing is written. -/
theorem event_setEvent_cases (s : State) (id : Nat) (k : Kind) (i : Nat) (e : Event) :
    (s.setEvent id k i e).event id k i = e ∨ (s.setEvent id k i e).event id k i = s.event id k i := by
  by_cases hl : id < s.modules.length
  · by_cases hi : i < ((s.mod id).ev.get k).length
    · exact .inl (event_setEvent_same hl hi e)
    · refine .inr ?_
      rw [event_of_mod, State.setEvent, State.mod_setMod_same hl, ModuleRegs.event, ModuleRegs.setEvent,
        ByKind.get_set_same, List.set_eq_of_length_le (Nat.le_of_not_lt hi)]
      rfl
  · refine .inr ?_
    have hsame : (s.setEvent id k i e).modules = s.modules := List.set_eq_of_length_le (Nat.le_of_not_lt hl)
    rw [event_of_mod, State.mod, hsame]
    rfl

/-- Writing a record with the configured counts that are there writes flag and counter alone. -/
theorem read_setEvent_keeping_counts (s : State) (id : Nat) (k : Kind) (i : Nat) {e : Event}
    (hd : e.debounceCount.toNat = s.read (.debounceCount id k i))
    (hr : e.resetCount.toNat = s.read (.resetCount id k i)) {r : Reg} (h1 : r ≠ .flag id k i)
    (h2 : r ≠ .counter id k i) : (s.setEvent id k i e).read r = s.read r := by
  by_cases h3 : r = .debounceCount id k i
  · subst h3
    rcases event_setEvent_cases s id k i e with h | h <;> simp only [State.read, h]
    exact hd
  by_cases h4 : r = .resetCount id k i
  · subst h4
    rcases event_setEvent_cases s id k i e with h | h <;> simp only [State.read, h]
    exact hr
  exact read_setEvent_ne s id k i e h1 h2 h3 h4

/-- No command writes a register outside its row of the access table. -/
theorem exec_read_of_unwritten {c : Instr} {s t : State} {r : Reg} (h : exec c s = .next t)
    (hr : r.writtenBy c = false) : t.read r = s.read r := by
  cases exec_effect h with
  | respond => exact read_respond ..
  | init f nh ns =>
    refine (read_respond ..).trans (read_setMod_init s _ f nh ns r fun hw => ?_)
    exact Reg.ne_of_unwritten hr (writtenBy_emInit hw f nh ns) rfl
  | configure k d r =>
    refine (read_respond ..).trans (read_setEvent_ne s _ k _ _ ?_ ?_ ?_ ?_) <;>
      exact Reg.ne_of_unwritten hr (by simp [Reg.writtenBy])
  | signal =>
    exact (read_respond ..).trans (read_setMod_tbFlag s _ true r (Reg.ne_of_unwritten hr (by simp [Reg.writtenBy])))
  | tick =>
    refine (read_respond ..).trans (read_setMod_ticked s _ r fun hw => ?_)
    exact Reg.ne_of_unwritten hr (writtenBy_emTick hw) rfl
  | @pend id k i =>
    obtain ⟨hflag, hcounter, -⟩ := writtenBy_setCommand id k i
    exact (read_respond ..).trans (read_setEvent_keeping_counts s id k i (e := { s.event id k i with flag := true })
      rfl rfl (Reg.ne_of_unwritten hr hflag) (Reg.ne_of_unwritten hr hcounter))
  | @latch id k i =>
    obtain ⟨hflag, hcounter, hlatch, hstate⟩ := writtenBy_setCommand id k i
    have hkept {x : Reg} := read_takeLatch_ne s id k i (r := x)
    refine (read_respond ..).trans ((read_setEvent_keeping_counts _ id k i ?_ ?_ (Reg.ne_of_unwritten hr hflag)
      (Reg.ne_of_unwritten hr hcounter)).trans (hkept (Reg.ne_of_unwritten hr hstate) (Reg.ne_of_unwritten hr hlatch)))
    · exact (hkept (x := .debounceCount id k i) nofun nofun).symm
    · exact (hkept (x := .resetCount id k i) nofun nofun).symm
  | @clear id k i =>
    obtain ⟨hflag, hcounter, -⟩ := writtenBy_setCommand id k i
    exact (read_respond ..).trans (read_setEvent_keeping_counts s id k i (e := (s.event id k i).cleared) rfl rfl
      (Reg.ne_of_unwritten hr hflag) (Reg.ne_of_unwritten hr hcounter))
  | @unlatch id =>
    refine (read_respond ..).trans (read_setMod_latch_opState s id _ _ ?_ fun k hk => ?_)
    · exact Reg.ne_of_unwritten hr (by simp [Reg.writtenBy])
    · exact absurd hk (Reg.ne_of_unwritten hr (by simp [Reg.writtenBy]))
  | writeState =>
    refine (read_respond ..).trans (read_setMod_latch_opState s _ _ _ ?_ fun _ _ => rfl)
    exact Reg.ne_of_unwritten hr (by simp [Reg.writtenBy])
  | configureSlice =>
    refine (read_respond ..).trans (read_setSlice_of_n s _ _ ?_ fun hn => ?_)
    · exact Reg.ne_of_unwritten hr (by simp [Reg.writtenBy])
    · exact absurd hn (Reg.ne_of_unwritten hr (by simp [Reg.writtenBy]))
  | stepSlice =>
    refine (read_respond ..).trans (read_setSlice_of_n s _ _ ?_ fun _ => rfl)
    exact Reg.ne_of_unwritten hr (by simp [Reg.writtenBy])

/-- Settles O42, outcome by outcome. -/
theorem onlyListedCommandsWriteARegister : Obligations.OnlyListedCommandsWriteARegister :=
  fun _ _ _ _ => exec_read_of_unwritten

end Sys2Proof.Machine
end

section
/-! PROOFS. Independence: a command reads and writes only the module and the slice that it names (R34, R85, R105). -/

namespace Sys2Proof.Machine

/-! ### Registers determine the records -/

theorem bitOf_injective {b b' : Bool} (h : bitOf b = bitOf b') : b = b' := by
  cases b <;> cases b' <;> simp_all [bitOf]

/-- Two events whose four registers read the same are the same record (R24). -/
theorem event_eq_of_reads {s s' : State} {id : Nat} {k : Kind} {i : Nat}
    (hf : s.read (.flag id k i) = s'.read (.flag id k i)) (hc : s.read (.counter id k i) = s'.read (.counter id k i))
    (hd : s.read (.debounceCount id k i) = s'.read (.debounceCount id k i))
    (hr : s.read (.resetCount id k i) = s'.read (.resetCount id k i)) : s.event id k i = s'.event id k i := by
  have hext {e e' : Event} (h1 : e.flag = e'.flag) (h2 : e.counter = e'.counter)
      (h3 : e.debounceCount = e'.debounceCount) (h4 : e.resetCount = e'.resetCount) : e = e' := by
    cases e
    cases e'
    simp_all
  exact hext (bitOf_injective hf) (BitVec.eq_of_toNat_eq hc) (BitVec.eq_of_toNat_eq hd) (BitVec.eq_of_toNat_eq hr)

theorem ByKind.ext_get {α : Type} {x y : ByKind α} (h : ∀ k, x.get k = y.get k) : x = y := by
  obtain ⟨xh, xs⟩ := x
  obtain ⟨yh, ys⟩ := y
  exact congrArg₂ ByKind.mk (h .hard) (h .soft)

/-- Two banks of one length with the same events are the same bank. -/
theorem bank_ext {xs ys : List Event} (hlen : xs.length = ys.length)
    (h : ∀ i, xs.getD i Event.reset = ys.getD i Event.reset) : xs = ys :=
  List.ext_getElem hlen fun i h1 h2 => by simpa [List.getD, h1, h2] using h i

/-- The reset module stands for a module that is not there (log 15). -/
theorem State.mod_of_absent {s : State} {id : Nat} (h : ¬ id < s.modules.length) :
    s.mod id = ModuleRegs.reset s.params := by
  rw [State.mod, List.getD, List.getElem?_eq_none (Nat.le_of_not_lt h)]
  rfl

/-- Two modules whose registers read the same are the same (R34). -/
theorem mod_eq_of_reads {s s' : State} (hs : s.Inv) (hs' : s'.Inv) (hp : s.params = s'.params) {id : Nat}
    (h : ∀ r : Reg, r.module = some id → s.read r = s'.read r) : s.mod id = s'.mod id := by
  by_cases hid : id < s.params.M
  · have hext {m m' : ModuleRegs} (h1 : m.freq = m'.freq) (h2 : m.num = m'.num) (h3 : m.tbFlag = m'.tbFlag)
        (h4 : m.ev = m'.ev) (h5 : m.latch = m'.latch) (h6 : m.opState = m'.opState) : m = m' := by
      cases m
      cases m'
      simp_all
    refine hext (BitVec.eq_of_toNat_eq (h (.freq id) rfl)) (ByKind.ext_get fun k => ?_)
      (bitOf_injective (h (.tbFlag id) rfl)) (ByKind.ext_get fun k => bank_ext ?_ fun i => ?_)
      (ByKind.ext_get fun k => ?_) (BitVec.eq_of_toNat_eq (h (.opState id) rfl))
    · exact BitVec.eq_of_toNat_eq (h (.num id k) rfl)
    · rw [hs.bank_length hid, hs'.bank_length (hp ▸ hid), hp]
    · exact event_eq_of_reads (h (.flag id k i) rfl) (h (.counter id k i) rfl) (h (.debounceCount id k i) rfl)
        (h (.resetCount id k i) rfl)
    · exact BitVec.eq_of_toNat_eq (h (.latch id k) rfl)
  · rw [State.mod_of_absent (hs.2.1 ▸ hid), State.mod_of_absent (hs'.2.1 ▸ hp ▸ hid), hp]

/-- Two slices whose registers read the same are the same (R30). -/
theorem slice_eq_of_reads {s s' : State} {j : Nat} (h : ∀ r : Reg, r.slice = some j → s.read r = s'.read r) :
    s.slice j = s'.slice j := by
  have hext {x y : Slice} (h1 : x.n = y.n) (h2 : x.counter = y.counter) : x = y := by
    cases x
    cases y
    simp_all
  exact hext (BitVec.eq_of_toNat_eq (h (.tsN j) rfl)) (BitVec.eq_of_toNat_eq (h (.tsCounter j) rfl))

/-! ### States that agree on what a command names -/

/-- Two states that agree on the parameters, on the sizes of the banks, on the outputs that a command finds, and on the
module and the slice that it names. -/
structure AgreeOn (c : Instr) (s s' : State) : Prop where
  params : s.params = s'.params
  accepted : s.out.accepted = s'.out.accepted
  turnOff : s.out.turnOff = s'.out.turnOff
  modules_length : s.modules.length = s'.modules.length
  slices_length : s.slices.length = s'.slices.length
  mod : ∀ id, c.module = some id → s.mod id = s'.mod id
  slice : ∀ j, c.slice = some j → s.slice j = s'.slice j

theorem AgreeOn.of_inv {c : Instr} {s s' : State} (hs : s.Inv) (hs' : s'.Inv) (hp : s.params = s'.params)
    (hout : s.out = s'.out) (hmod : ∀ id, c.module = some id → s.mod id = s'.mod id)
    (hslice : ∀ j, c.slice = some j → s.slice j = s'.slice j) : AgreeOn c s s' where
  params := hp
  accepted := congrArg StepOutput.accepted hout
  turnOff := congrArg StepOutput.turnOff hout
  modules_length := by rw [hs.2.1, hs'.2.1, hp]
  slices_length := by rw [hs.2.2.1, hs'.2.2.1, hp]
  mod := hmod
  slice := hslice

/-- Both outcomes are next states that agree on what the command names, and their outputs are the same. -/
def OutcomesAgree (c : Instr) (o o' : Host.Outcome State Fault Refusal) : Prop :=
  ∃ t t', o = .next t ∧ o' = .next t' ∧ AgreeOn c t t' ∧ t.out = t'.out

section
variable {c : Instr} {s s' : State} (h : AgreeOn c s s')
include h

theorem AgreeOn.setMod (id : Nat) (m : ModuleRegs) : AgreeOn c (s.setMod id m) (s'.setMod id m) where
  params := h.params
  accepted := h.accepted
  turnOff := h.turnOff
  modules_length := by simpa using h.modules_length
  slices_length := h.slices_length
  slice := h.slice
  mod id' hid' := by
    by_cases hne : id' = id
    · subst hne
      have hmod := h.mod id' hid'
      simp only [State.mod, List.getD] at hmod
      simp only [State.mod, State.setMod_modules, State.setMod_params, List.getD, List.getElem?_set, if_true,
        h.modules_length, h.params]
    · rw [State.mod_setMod_ne s hne, State.mod_setMod_ne s' hne]
      exact h.mod id' hid'

theorem AgreeOn.setSlice (j : Nat) (x : Slice) : AgreeOn c (s.setSlice j x) (s'.setSlice j x) where
  params := h.params
  accepted := h.accepted
  turnOff := h.turnOff
  modules_length := h.modules_length
  slices_length := by simpa using h.slices_length
  mod := h.mod
  slice j' hj' := by
    by_cases hne : j' = j
    · simp only [hne, State.slice, State.setSlice_slices, List.getD, List.getElem?_set, if_true, h.slices_length]
    · rw [State.slice_setSlice_ne s hne, State.slice_setSlice_ne s' hne]
      exact h.slice j' hj'

theorem AgreeOn.emitTurnOff (id : Nat) : AgreeOn c (s.emitTurnOff id) (s'.emitTurnOff id) :=
  { h with turnOff := congrArg (· ++ [id]) h.turnOff }

theorem AgreeOn.respond (st : Status) (a b : Word) :
    OutcomesAgree c (.next (s.respond st a b)) (.next (s'.respond st a b)) :=
  ⟨_, _, rfl, rfl, { h with }, by simp only [State.respond, h.accepted, h.turnOff]⟩

theorem AgreeOn.rangeError : OutcomesAgree c (.next s.rangeError) (.next s'.rangeError) := h.respond ..

/-- A range check in front of the outcomes is the same check in both states. -/
theorem AgreeOn.check {p : Prop} [Decidable p] {o o' : Host.Outcome State Fault Refusal} (ho : OutcomesAgree c o o') :
    OutcomesAgree c (if p then o else .next s.rangeError) (if p then o' else .next s'.rangeError) := by
  split
  · exact ho
  · exact h.rangeError

theorem AgreeOn.setEvent {id : Nat} (hid : c.module = some id) (k : Kind) (i : Nat) (e : Event) :
    AgreeOn c (s.setEvent id k i e) (s'.setEvent id k i e) := by
  rw [State.setEvent, State.setEvent, h.mod id hid]
  exact h.setMod ..

theorem AgreeOn.takeLatch {id : Nat} (hid : c.module = some id) (k : Kind) (i : Nat) :
    AgreeOn c (s.takeLatch id k i) (s'.takeLatch id k i) := by
  simp only [State.takeLatch, h.mod id hid]
  exact (h.emitTurnOff id).setMod ..

/-- The set procedure looks at nothing but the module (R85, R86). -/
theorem AgreeOn.setProcedure {id : Nat} (hid : c.module = some id) (k : Kind) (i : Nat) :
    OutcomesAgree c (.next (s.setProcedure id k i)) (.next (s'.setProcedure id k i)) := by
  have hevent : s.event id k i = s'.event id k i := by rw [event_of_mod, h.mod id hid, event_of_mod]
  have hnum : s.num id k = s'.num id k := by rw [State.num, h.mod id hid, State.num]
  have hbit : s.latchBit id k i = s'.latchBit id k i := by
    rw [State.latchBit, State.latch, h.mod id hid, State.latchBit, State.latch]
  simp only [State.setProcedure, hevent, hnum, hbit, h.params]
  split_ifs
  · exact (h.setEvent hid ..).respond ..
  · exact ((h.takeLatch hid k i).setEvent hid ..).respond ..
  · exact (h.setEvent hid ..).respond ..
  · exact h.rangeError
  · exact h.rangeError

/-- A command looks at nothing but the module or the slice that it names. -/
theorem AgreeOn.exec : OutcomesAgree c (exec c s) (exec c s') := by
  have hp := h.params
  cases c with
  | nop => exact h.respond ..
  | emInit id f nh ns =>
    simp only [Machine.exec, execEmInit, hp, h.mod id rfl]
    exact h.check ((h.setMod ..).respond ..)
  | emCfgEvent id k i d r =>
    simp only [Machine.exec, execEmCfgEvent, hp, h.mod id rfl]
    exact h.check (h.check ((h.setEvent rfl ..).respond ..))
  | emTbSignal id =>
    simp only [Machine.exec, execEmTbSignal, hp, h.mod id rfl]
    exact h.check ((h.setMod ..).respond ..)
  | emTick id =>
    simp only [Machine.exec, execEmTick, hp, h.mod id rfl]
    refine h.check ?_
    split
    · exact (h.setMod ..).respond ..
    · exact h.respond ..
  | setHard id i => exact h.setProcedure rfl .hard i
  | setSoft id i => exact h.setProcedure rfl .soft i
  | itlkReset id safe =>
    simp only [Machine.exec, execItlkReset, State.leaveLatch, State.latch, hp, h.mod id rfl]
    exact h.check ((h.setMod ..).respond ..)
  | wrState id v =>
    simp only [Machine.exec, execWrState, State.setOpState, State.opState, hp, h.mod id rfl]
    exact h.check (h.check ((h.setMod ..).respond ..))
  | tsConfig j t m =>
    simp only [Machine.exec, execTsConfig, hp]
    exact h.check ((h.setSlice ..).respond ..)
  | tsStep j =>
    simp only [Machine.exec, execTsStep, hp, h.slice j rfl]
    refine h.check ?_
    split
    · exact (h.setSlice ..).respond ..
    · exact (h.setSlice ..).respond ..
  | rdLatch id k =>
    simp only [Machine.exec, execRdLatch, State.latch, hp, h.mod id rfl]
    exact h.check (h.respond ..)
  | rdModule id =>
    simp only [Machine.exec, execRdModule, hp, h.mod id rfl]
    exact h.check (h.respond ..)
  | rdEvent id k i =>
    simp only [Machine.exec, execRdEvent, State.event, State.latchBit, State.latch, hp, h.mod id rfl]
    exact h.check (h.check (h.respond ..))
  | rdEventCfg id k i =>
    simp only [Machine.exec, execRdEventCfg, State.event, hp, h.mod id rfl]
    exact h.check (h.check (h.respond ..))
  | rdSlice j =>
    simp only [Machine.exec, execRdSlice, hp, h.slice j rfl]
    exact h.check (h.respond ..)

/-- What a command leaves in two states that agree on what it names, when both answer. -/
theorem AgreeOn.exec_next {t t' : State} (ht : Machine.exec c s = .next t) (ht' : Machine.exec c s' = .next t') :
    AgreeOn c t t' ∧ t.out = t'.out := by
  obtain ⟨u, u', hu, hu', hagree, hout⟩ := h.exec
  cases hu.symm.trans ht
  cases hu'.symm.trans ht'
  exact ⟨hagree, hout⟩

end

/-- A command that names a module names no slice. -/
theorem slice_eq_none_of_module {c : Instr} {id : Nat} (h : c.module = some id) : c.slice = none := by
  cases c <;> simp_all [Instr.module, Instr.slice]

/-- A command writes registers of the module or the slice that it names alone (R34, R35). -/
theorem Reg.names_of_writtenBy {r : Reg} {c : Instr} (h : r.writtenBy c = true) :
    r.module = c.module ∧ r.slice = c.slice := by
  cases c <;> cases r <;> simp_all [Reg.writtenBy, Reg.module, Instr.module, Reg.slice, Instr.slice]

/-- Settles O43: by the registers of the module the two states agree on it, and what the command leaves alone is what
it does not write. -/
theorem modulesAreIndependent : Obligations.ModulesAreIndependent := by
  intro c id s s' t t' hid hs hs' hp hout hreads ht ht'
  have hagree : AgreeOn c s s' := by
    refine AgreeOn.of_inv hs hs' hp hout (fun id' hid' => ?_) fun j hj => ?_
    · cases hid.symm.trans hid'
      exact mod_eq_of_reads hs hs' hp hreads
    · cases (slice_eq_none_of_module hid).symm.trans hj
  obtain ⟨hagree', hout'⟩ := hagree.exec_next ht ht'
  refine ⟨hout', fun r hr => read_congr_mod (hagree'.mod id hid) hr, fun r hr => exec_read_of_unwritten ht ?_⟩
  refine Bool.eq_false_iff.2 fun hw => hr ?_
  rw [(Reg.names_of_writtenBy hw).1, hid]

/-- Settles O44, as for a module. -/
theorem slicesAreIndependent : Obligations.SlicesAreIndependent := by
  intro c j s s' t t' hj hs hs' hp hout hreads ht ht'
  have hagree : AgreeOn c s s' := by
    refine AgreeOn.of_inv hs hs' hp hout (fun id hid => ?_) fun j' hj' => ?_
    · cases (slice_eq_none_of_module hid).symm.trans hj
    · cases hj.symm.trans hj'
      exact slice_eq_of_reads hreads
  obtain ⟨hagree', hout'⟩ := hagree.exec_next ht ht'
  refine ⟨hout', fun r hr => read_congr_slice (hagree'.slice j hj) hr, fun r hr => exec_read_of_unwritten ht ?_⟩
  refine Bool.eq_false_iff.2 fun hw => hr ?_
  rw [(Reg.names_of_writtenBy hw).2, hj]

end Sys2Proof.Machine
end

section
/-! PROOFS. One event and its transitions under every command (R90). -/

namespace Sys2Proof.Machine

/-! ### The derived state of an event (R26) -/

theorem Event.phase_eq_idle_iff {e : Event} : e.phase = .idle ↔ e.flag = false := by
  unfold Event.phase
  split_ifs <;> simp_all

theorem Event.phase_eq_pending_iff {e : Event} :
    e.phase = .pending ↔ e.flag = true ∧ e.counter.toNat < e.debounceCount.toNat := by
  unfold Event.phase
  split_ifs <;> simp_all

theorem Event.phase_eq_armed_iff {e : Event} :
    e.phase = .armed ↔ e.flag = true ∧ e.debounceCount.toNat ≤ e.counter.toNat := by
  unfold Event.phase
  split_ifs <;> simp_all

@[simp] theorem Event.phase_cleared (e : Event) : e.cleared.phase = .idle := rfl

/-- An idle event has counter 0 (R25(a)). -/
theorem State.Inv.counter_of_idle {s : State} (h : s.Inv) {id : Nat} (hid : id < s.params.M) {k : Kind} {i : Nat}
    (hf : (s.event id k i).flag = false) : s.read (.counter id k i) = 0 := by
  obtain ⟨hidle, -⟩ := h.event_ok hid k i
  exact congrArg BitVec.toNat (hidle hf)

/-- Both counts of an event are in order (R25(b), (c)). -/
theorem State.Inv.counts_lt {s : State} (h : s.Inv) {id : Nat} (hid : id < s.params.M) (k : Kind) (i : Nat) :
    s.read (.counter id k i) < s.read (.resetCount id k i) ∧
      s.read (.debounceCount id k i) < s.read (.resetCount id k i) := by
  obtain ⟨-, hcounter, hdebounce, -⟩ := h.event_ok hid k i
  exact ⟨hcounter, hdebounce⟩

/-! ### SET and EM_TICK on one event -/

section
variable {s : State} {id : Nat} {k : Kind} {i : Nat} (hs : s.Inv) (hid : id < s.params.M) (hi : i < s.read (.num id k))
include hs hid hi

/-- Below the threshold the set procedure flags the event and latches nothing (R86). -/
theorem setProcedure_below (h : s.read (.counter id k i) < s.read (.debounceCount id k i)) :
    (s.setProcedure id k i).event id k i = { s.event id k i with flag := true } ∧
      (s.setProcedure id k i).read (.latch id k) = s.read (.latch id k) := by
  rcases setProcedure_effect hs hid hi with ⟨-, hev, hlatch, -⟩ | ⟨hmet, -⟩ | ⟨hmet, -⟩
  · exact ⟨hev, congrArg BitVec.toNat hlatch⟩
  · exact absurd (of_decide_eq_true hmet) (Nat.not_le.2 h)
  · exact absurd (of_decide_eq_true hmet) (Nat.not_le.2 h)

/-- At the threshold the set procedure clears the event and leaves its latch bit set (R86). -/
theorem setProcedure_reached (h : s.read (.debounceCount id k i) ≤ s.read (.counter id k i)) :
    (s.setProcedure id k i).event id k i = (s.event id k i).cleared ∧
      (s.setProcedure id k i).latchBit id k i = true := by
  rcases setProcedure_effect hs hid hi with ⟨hmet, -⟩ | ⟨-, hbit, hev, hlatch, -⟩ | ⟨-, -, hev, hlatch, -⟩
  · exact absurd h (of_decide_eq_false hmet)
  · exact ⟨hev, by rwa [State.latchBit, hlatch]⟩
  · refine ⟨hev, ?_⟩
    rw [State.latchBit, hlatch, getLsbD_or_one_shl _ _ _ (lt_32_of_configured hs hid hi)]
    simp

/-- SET follows the rows of the transition table (R90). -/
theorem setProcedure_transitions :
    ((s.event id k i).phase = .idle → s.read (.debounceCount id k i) = 0 →
      ((s.setProcedure id k i).event id k i).phase = .idle ∧ (s.setProcedure id k i).read (.counter id k i) = 0 ∧
        (s.setProcedure id k i).latchBit id k i = true) ∧
    ((s.event id k i).phase = .idle → 0 < s.read (.debounceCount id k i) →
      ((s.setProcedure id k i).event id k i).phase = .pending ∧ (s.setProcedure id k i).read (.counter id k i) = 0 ∧
        (s.setProcedure id k i).read (.latch id k) = s.read (.latch id k)) ∧
    ((s.event id k i).phase = .pending →
      ((s.setProcedure id k i).event id k i).phase = .pending ∧
        (s.setProcedure id k i).read (.counter id k i) = s.read (.counter id k i) ∧
        (s.setProcedure id k i).read (.latch id k) = s.read (.latch id k)) ∧
    ((s.event id k i).phase = .armed →
      ((s.setProcedure id k i).event id k i).phase = .idle ∧ (s.setProcedure id k i).read (.counter id k i) = 0 ∧
        (s.setProcedure id k i).latchBit id k i = true) := by
  have hclears (h : s.read (.debounceCount id k i) ≤ s.read (.counter id k i)) :
      ((s.setProcedure id k i).event id k i).phase = .idle ∧ (s.setProcedure id k i).read (.counter id k i) = 0 ∧
        (s.setProcedure id k i).latchBit id k i = true := by
    obtain ⟨hev, hbit⟩ := setProcedure_reached hs hid hi h
    exact ⟨by rw [hev, Event.phase_cleared], (reads_of_event hev).2.1, hbit⟩
  have hpends (h : s.read (.counter id k i) < s.read (.debounceCount id k i)) :
      ((s.setProcedure id k i).event id k i).phase = .pending ∧
        (s.setProcedure id k i).read (.counter id k i) = s.read (.counter id k i) ∧
        (s.setProcedure id k i).read (.latch id k) = s.read (.latch id k) := by
    obtain ⟨hev, hlatch⟩ := setProcedure_below hs hid hi h
    refine ⟨?_, (reads_of_event hev).2.1, hlatch⟩
    rw [hev, Event.phase_eq_pending_iff]
    exact ⟨rfl, h⟩
  have hzero (h : (s.event id k i).phase = .idle) := hs.counter_of_idle hid (Event.phase_eq_idle_iff.1 h)
  refine ⟨fun hidle hdc => hclears (by omega), fun hidle hdc => ?_, fun hpending => hpends ?_, fun harmed => hclears ?_⟩
  · have hcounter := hzero hidle
    have h := hpends (hcounter ▸ hdc)
    rwa [hcounter] at h
  · exact (Event.phase_eq_pending_iff.1 hpending).2
  · exact (Event.phase_eq_armed_iff.1 harmed).2

/-- A consumed tick follows the rows of the transition table (R90). -/
theorem emTick_transitions {t : State} (ht : exec (.emTick id) s = .next t) (htb : s.read (.tbFlag id) = 1) :
    ((s.event id k i).phase = .idle → (t.event id k i).phase = .idle ∧ t.read (.counter id k i) = 0) ∧
    ((s.event id k i).phase = .pending → s.read (.counter id k i) + 1 < s.read (.debounceCount id k i) →
      (t.event id k i).phase = .pending ∧ t.read (.counter id k i) = s.read (.counter id k i) + 1) ∧
    ((s.event id k i).phase = .pending → s.read (.counter id k i) + 1 = s.read (.debounceCount id k i) →
      (t.event id k i).phase = .armed ∧ t.read (.counter id k i) = s.read (.counter id k i) + 1) ∧
    ((s.event id k i).phase = .armed → s.read (.counter id k i) + 1 < s.read (.resetCount id k i) →
      (t.event id k i).phase = .armed ∧ t.read (.counter id k i) = s.read (.counter id k i) + 1) ∧
    ((s.event id k i).phase = .armed → s.read (.resetCount id k i) ≤ s.read (.counter id k i) + 1 →
      (t.event id k i).phase = .idle ∧ t.read (.counter id k i) = 0) := by
  have hev : t.event id k i = (s.event id k i).tick :=
    (emTick_event hs k i hid ht).trans (if_pos ⟨bitOf_eq_one.1 htb, hi⟩)
  obtain ⟨-, hread, -⟩ := reads_of_event hev
  obtain ⟨-, hdc⟩ := hs.counts_lt hid k i
  have hcounts (hf : (s.event id k i).flag = true) (hlt : s.read (.counter id k i) + 1 < s.read (.resetCount id k i)) :
      (t.event id k i).flag = true ∧ t.read (.counter id k i) = s.read (.counter id k i) + 1 ∧
        (t.event id k i).debounceCount = (s.event id k i).debounceCount := by
    obtain ⟨hflag, hcounter⟩ := Event.tick_of_lt hf hlt
    exact ⟨by rw [hev, hflag], hread.trans hcounter, by rw [hev, (Event.tick_counts _).1]⟩
  refine ⟨fun hidle => ?_, fun hpending hlt => ?_, fun hpending heq => ?_, fun harmed hlt => ?_, fun harmed hle => ?_⟩
  · have hf := Event.phase_eq_idle_iff.1 hidle
    have hsame : t.event id k i = s.event id k i := hev.trans (Event.tick_of_idle (by simp [hf]))
    exact ⟨by rw [hsame, hidle], (reads_of_event hsame).2.1.trans (hs.counter_of_idle hid hf)⟩
  · obtain ⟨hflag, hcounter, hdebounce⟩ := hcounts (Event.phase_eq_pending_iff.1 hpending).1 (by omega)
    exact ⟨Event.phase_eq_pending_iff.2 ⟨hflag, by rw [hdebounce]; exact hcounter.trans_lt hlt⟩, hcounter⟩
  · obtain ⟨hflag, hcounter, hdebounce⟩ := hcounts (Event.phase_eq_pending_iff.1 hpending).1 (by omega)
    exact ⟨Event.phase_eq_armed_iff.2 ⟨hflag, by rw [hdebounce]; exact (hcounter.trans heq).ge⟩, hcounter⟩
  · obtain ⟨hf, hle⟩ := Event.phase_eq_armed_iff.1 harmed
    obtain ⟨hflag, hcounter, hdebounce⟩ := hcounts hf hlt
    refine ⟨Event.phase_eq_armed_iff.2 ⟨hflag, ?_⟩, hcounter⟩
    rw [hdebounce]
    exact hle.trans ((Nat.le_succ _).trans_eq hcounter.symm)
  · have hclear := hev.trans (Event.tick_of_le (Event.phase_eq_armed_iff.1 harmed).1 hle)
    exact ⟨by rw [hclear, Event.phase_cleared], (reads_of_event hclear).2.1⟩

end

/-- The commands that write a register of an event (R35). -/
theorem cases_of_writtenBy_event {r : Reg} {c : Instr} {id : Nat} {k : Kind} {i : Nat}
    (hr : r = .flag id k i ∨ r = .counter id k i ∨ r = .debounceCount id k i ∨ r = .resetCount id k i)
    (h : r.writtenBy c = true) :
    c = setCommand id k i ∨ c = .emTick id ∨ (∃ f nh ns, c = .emInit id f nh ns) ∨
      ∃ d rc, c = .emCfgEvent id k i d rc := by
  rcases hr with rfl | rfl | rfl | rfl <;> cases c <;> simp_all [Reg.writtenBy, setCommand]

/-- A command that writes no register of an event leaves its record as it is (R35). -/
theorem event_of_unwritten {c : Instr} {s t : State} {id : Nat} {k : Kind} {i : Nat} (h : exec c s = .next t)
    (hset : c ≠ setCommand id k i) (htick : c ≠ .emTick id) (hinit : ∀ f nh ns, c ≠ .emInit id f nh ns)
    (hcfg : ∀ d r, c ≠ .emCfgEvent id k i d r) : t.event id k i = s.event id k i := by
  have hkept {r : Reg}
      (hr : r = .flag id k i ∨ r = .counter id k i ∨ r = .debounceCount id k i ∨ r = .resetCount id k i) :
      t.read r = s.read r := by
    refine exec_read_of_unwritten h (Bool.eq_false_iff.2 fun hw => ?_)
    rcases cases_of_writtenBy_event hr hw with hc | hc | ⟨f, nh, ns, hc⟩ | ⟨d, rc, hc⟩
    · exact hset hc
    · exact htick hc
    · exact hinit f nh ns hc
    · exact hcfg d rc hc
  exact event_eq_of_reads (hkept (.inl rfl)) (hkept (.inr (.inl rfl))) (hkept (.inr (.inr (.inl rfl))))
    (hkept (.inr (.inr (.inr rfl))))

/-- Settles O49: SET and EM_TICK by their rows, the two configuring commands by the record that they write, and every
other command by what it does not write. -/
theorem eventFollowsTheTransitionTable : Obligations.EventFollowsTheTransitionTable := by
  intro s id k i hs hid hi
  have hiE : i < s.params.E := hi.trans_le (hs.num_le hid k)
  refine ⟨fun t ht => ?_, fun t ht htb => emTick_transitions hs hid hi ht htb, fun t ht htb => ?_,
    fun t f nh ns ht => ?_, fun t d r ht => ?_,
    fun t c ht hset htick hinit hcfg => event_of_unwritten ht hset htick hinit hcfg⟩
  · cases (exec_setCommand id k i s).symm.trans ht
    exact setProcedure_transitions hs hid hi
  · cases (exec_emTick_of_clear hid htb).symm.trans ht
    rfl
  · cases (exec_emInit hid f nh ns).symm.trans ht
    have hmod := State.mod_setMod_same (hs.mod_lt hid) ((s.mod id).init s.params f nh ns)
    have hev : (s.setMod id ((s.mod id).init s.params f nh ns)).event id k i = Event.reset := by
      rw [event_of_mod, hmod, ModuleRegs.event_init]
    exact ⟨congrArg Event.phase hev, (reads_of_event hev).2.1⟩
  · cases (exec_emCfgEvent hid hiE k d r).symm.trans ht
    have hev := event_setEvent_same (hs.mod_lt hid) ((hs.bank_length hid k).symm ▸ hiE)
      (Event.configured s.params (s.read (.freq id)) d r)
    exact ⟨congrArg Event.phase hev, (reads_of_event hev).2.1⟩

end Sys2Proof.Machine
end

section
/-! PROOFS. Sequences of commands (R47): what each command keeps, all of them keep; and which commands may be repeated
(R44). -/

namespace Sys2Proof.Machine

/-! ### Sequences of commands -/

theorem execAll_cons {c : Instr} {cs : List Instr} {s u : State} (h : execAll (c :: cs) s = some u) :
    ∃ t, exec c s = .next t ∧ execAll cs t = some u := by
  obtain ⟨t, ht, -⟩ := exec_next c s
  rw [execAll.eq_def] at h
  simp only [ht] at h
  exact ⟨t, ht, h⟩

/-- What every command of a sequence keeps, the sequence keeps. -/
theorem execAll_keeps {P : State → Prop} {cs : List Instr}
    (hkeeps : ∀ c ∈ cs, ∀ s t, P s → exec c s = .next t → P t) {s u : State} (hs : P s) (h : execAll cs s = some u) :
    P u := by
  induction cs generalizing s with
  | nil =>
    cases h
    exact hs
  | cons c cs ih =>
    obtain ⟨t, ht, hrest⟩ := execAll_cons h
    exact ih (fun c' hc' => hkeeps c' (List.mem_cons_of_mem c hc')) (hkeeps c List.mem_cons_self s t hs ht) hrest

theorem exec_params {c : Instr} {s t : State} (h : exec c s = .next t) : t.params = s.params := by
  obtain ⟨t', ht', hp, -⟩ := exec_next c s
  cases ht'.symm.trans h
  exact hp

/-! ### Commands without side effect -/

/-- A command that writes no register only responds. -/
theorem exec_respond_of_unwritten {c : Instr} (hc : ∀ r : Reg, r.writtenBy c = false) {s t : State}
    (h : exec c s = .next t) : ∃ st a b, t = s.respond st a b := by
  have hwrites {r : Reg} (hr : r.writtenBy c = true) : ∃ st a b, t = s.respond st a b :=
    absurd ((hc r).symm.trans hr) (by decide)
  cases exec_effect h with
  | respond c st a b => exact ⟨st, a, b, rfl⟩
  | init f nh ns a b hid => exact hwrites (writtenBy_emInit (.inl rfl) f nh ns)
  | @configure id k i => exact hwrites (r := .flag id k i) (by simp [Reg.writtenBy])
  | @signal id => exact hwrites (r := .tbFlag id) (by simp [Reg.writtenBy])
  | @tick id => exact hwrites (r := .tbFlag id) (by simp [Reg.writtenBy])
  | pend | latch | clear => exact hwrites (writtenBy_setCommand ..).1
  | @unlatch id => exact hwrites (r := .opState id) (by simp [Reg.writtenBy])
  | @writeState id => exact hwrites (r := .opState id) (by simp [Reg.writtenBy])
  | @configureSlice j => exact hwrites (r := .tsN j) (by simp [Reg.writtenBy])
  | @stepSlice j => exact hwrites (r := .tsCounter j) (by simp [Reg.writtenBy])

/-- A command that writes no register changes none, emits nothing, and answers the same when repeated. -/
theorem exec_twice_of_unwritten {c : Instr} (hc : ∀ r : Reg, r.writtenBy c = false) {s t u : State}
    (ht : exec c s = .next t) (hu : exec c t = .next u) :
    (∀ r : Reg, t.read r = s.read r) ∧ t.out.turnOff = s.out.turnOff ∧ u.out.response = t.out.response := by
  refine ⟨fun r => exec_read_of_unwritten ht (hc r), ?_⟩
  obtain ⟨st, a, b, rfl⟩ := exec_respond_of_unwritten hc ht
  have hagree : AgreeOn c s (s.respond st a b) := ⟨rfl, rfl, rfl, rfl, rfl, fun _ _ => rfl, fun _ _ => rfl⟩
  obtain ⟨-, hout⟩ := hagree.exec_next ht hu
  exact ⟨rfl, (congrArg StepOutput.response hout).symm⟩

/-! ### Commands that leave the same registers when repeated -/

/-- In every state with parameters `p` the command answers RANGE, or in every one it updates its module by `f`. -/
def UpdatesModule (c : Instr) (p : Params) (id : Nat) (f : ModuleRegs → ModuleRegs) : Prop :=
  (∀ s : State, s.params = p → exec c s = .next s.rangeError) ∨
    ∀ s : State, s.params = p → ∃ a b, exec c s = .next ((s.setMod id (f (s.mod id))).respond .ok a b)

theorem setMod_mod_self (s : State) (id : Nat) (r : Reg) : (s.setMod id (s.mod id)).read r = s.read r :=
  read_setMod_of s id _ r fun _ hr hmod => read_congr_mod hmod hr

/-- A module update that does nothing the second time leaves the same registers when the command is repeated. -/
theorem UpdatesModule.read_twice {c : Instr} {id : Nat} {f : ModuleRegs → ModuleRegs} {s t u : State}
    (hc : UpdatesModule c s.params id f) (hf : ∀ m, f (f m) = f m) (ht : exec c s = .next t)
    (hu : exec c t = .next u) (r : Reg) : u.read r = t.read r := by
  rcases hc with hrange | hupdate
  · cases (hrange t (exec_params ht)).symm.trans hu
    exact read_rangeError t r
  · obtain ⟨a', b', hu'⟩ := hupdate t (exec_params ht)
    cases hu'.symm.trans hu
    rw [read_respond]
    by_cases hid : id < t.modules.length
    · obtain ⟨a, b, ht'⟩ := hupdate s rfl
      cases ht'.symm.trans ht
      have hmod : ((s.setMod id (f (s.mod id))).respond .ok a b).mod id = f (s.mod id) :=
        State.mod_setMod_same (by simpa using hid) _
      have hself := setMod_mod_self ((s.setMod id (f (s.mod id))).respond .ok a b) id r
      rw [hmod] at hself
      rwa [hmod, hf]
    · exact read_setMod_absent t id _ r hid

/-- The registers that ITLK_RESET leaves in a module with registers `m` (R95). -/
def ModuleRegs.unlatched (safe : Bool) (m : ModuleRegs) : ModuleRegs :=
  { m with
    latch := { hard := 0, soft := 0 }
    opState := if safe && m.opState == stateInterlock then stateOff else m.opState }

theorem ModuleRegs.unlatched_twice (safe : Bool) (m : ModuleRegs) :
    (m.unlatched safe).unlatched safe = m.unlatched safe := by
  simp only [ModuleRegs.unlatched, ModuleRegs.mk.injEq, true_and]
  split_ifs <;> simp_all [stateOff, stateInterlock]

theorem ModuleRegs.setEvent_twice (m : ModuleRegs) (k : Kind) (i : Nat) (e : Event) :
    (m.setEvent k i e).setEvent k i e = m.setEvent k i e := by
  cases k <;> simp [ModuleRegs.setEvent, ByKind.set, ByKind.get]

section
variable (p : Params) (id : Nat)

theorem updatesModule_emTbSignal : UpdatesModule (.emTbSignal id) p id fun m => { m with tbFlag := true } := by
  by_cases hid : id < p.M
  · exact .inr fun s hp => ⟨_, _, exec_emTbSignal (hp ▸ hid)⟩
  · exact .inl fun s hp => exec_of_rangeFails (by simpa [rangeFails, Instr.module, Instr.slice, hp] using hid)

theorem updatesModule_itlkReset (safe : Bool) : UpdatesModule (.itlkReset id safe) p id (·.unlatched safe) := by
  by_cases hid : id < p.M
  · exact .inr fun s hp => ⟨_, _, exec_itlkReset (hp ▸ hid) safe⟩
  · exact .inl fun s hp => exec_of_rangeFails (by simpa [rangeFails, Instr.module, Instr.slice, hp] using hid)

theorem updatesModule_wrState (v : Nat) :
    UpdatesModule (.wrState id v) p id fun m => { m with opState := BitVec.ofNat SW v } := by
  by_cases h : id < p.M ∧ v < 2 ^ SW
  · exact .inr fun s hp => ⟨_, _, exec_wrState (hp ▸ h.1) h.2⟩
  · refine .inl fun s hp => exec_of_rangeFails ?_
    simpa [rangeFails, Instr.module, Instr.slice, hp, imp_iff_not_or] using h

theorem updatesModule_emInit (f nh ns : Nat) : UpdatesModule (.emInit id f nh ns) p id (·.init p f nh ns) := by
  by_cases hid : id < p.M
  · exact .inr fun s hp => by subst hp; exact ⟨_, _, exec_emInit hid f nh ns⟩
  · exact .inl fun s hp => exec_of_rangeFails (by simpa [rangeFails, Instr.module, Instr.slice, hp] using hid)

theorem updatesModule_emCfgEvent (k : Kind) (i d r : Nat) :
    UpdatesModule (.emCfgEvent id k i d r) p id fun m => m.setEvent k i (Event.configured p m.freq.toNat d r) := by
  by_cases h : id < p.M ∧ i < p.E
  · exact .inr fun s hp => by subst hp; exact ⟨_, _, exec_emCfgEvent h.1 h.2 k d r⟩
  · refine .inl fun s hp => exec_of_rangeFails ?_
    simpa [rangeFails, Instr.module, Instr.slice, hp, imp_iff_not_or] using h

end

/-! ### A period is consumed once (R82) -/

/-- After EM_TICK `tb_flag` is clear. -/
theorem tbFlag_of_emTick {id : Nat} {s t : State} (hid : id < s.params.M) (h : exec (.emTick id) s = .next t) :
    t.read (.tbFlag id) = 0 := by
  cases htb : (s.mod id).tbFlag with
  | false =>
    have hclear : s.read (.tbFlag id) = 0 := bitOf_eq_zero.2 htb
    cases (exec_emTick_of_clear hid hclear).symm.trans h
    rwa [read_respond]
  | true =>
    cases (exec_emTick_of_set hid (bitOf_eq_one.2 htb)).symm.trans h
    have hpresent : id < s.modules.length := by
      by_contra habsent
      rw [State.mod_of_absent habsent] at htb
      cases htb
    exact bitOf_eq_zero.2 (congrArg ModuleRegs.tbFlag (State.mod_setMod_same hpresent (s.mod id).ticked))

/-- A clear `tb_flag` stays clear under every command but EM_TB_SIGNAL (R35, R80). -/
theorem exec_keeps_tbFlag_clear {c : Instr} {id : Nat} (hc : c ≠ .emTbSignal id) {s t : State} (hid : id < s.params.M)
    (hs : s.read (.tbFlag id) = 0) (h : exec c s = .next t) : t.read (.tbFlag id) = 0 := by
  cases hw : (Reg.tbFlag id).writtenBy c with
  | false => exact (exec_read_of_unwritten h hw).trans hs
  | true =>
    cases c <;> simp only [Reg.writtenBy, beq_iff_eq, Bool.false_eq_true] at hw <;> subst hw
    case emTbSignal => exact absurd rfl hc
    case emTick => exact tbFlag_of_emTick hid h
    case emInit f nh ns =>
      cases (exec_emInit hid f nh ns).symm.trans h
      rw [read_respond]
      by_cases hpresent : id < s.modules.length
      · exact congrArg (fun m => bitOf m.tbFlag) (State.mod_setMod_same hpresent ((s.mod id).init s.params f nh ns))
      · exact (read_setMod_absent s id _ _ hpresent).trans hs

/-- A second EM_TICK with no EM_TB_SIGNAL on the module between finds no period and changes nothing (R44, R82). -/
theorem emTick_twice {id : Nat} {s t u v : State} {cs : List Instr} (ht : exec (.emTick id) s = .next t)
    (hcs : ∀ c ∈ cs, c ≠ .emTbSignal id) (hu : execAll cs t = some u) (hv : exec (.emTick id) u = .next v) (r : Reg) :
    v.read r = u.read r := by
  have hparams : t.params = s.params := exec_params ht
  by_cases hid : id < s.params.M
  · obtain ⟨hparams', hclear⟩ := execAll_keeps (P := fun x => x.params = s.params ∧ x.read (.tbFlag id) = 0)
      (fun c hc x y hx hy => ⟨(exec_params hy).trans hx.1,
        exec_keeps_tbFlag_clear (hcs c hc) (by rw [hx.1]; exact hid) hx.2 hy⟩) ⟨hparams, tbFlag_of_emTick hid ht⟩ hu
    cases (exec_emTick_of_clear (by rw [hparams']; exact hid) hclear).symm.trans hv
    exact read_respond ..
  · have hparams' : u.params = s.params :=
      execAll_keeps (P := fun x => x.params = s.params) (fun _ _ _ _ hx hy => (exec_params hy).trans hx) hparams hu
    have hrange : rangeFails u (.emTick id) = true := by
      simpa [rangeFails, Instr.module, Instr.slice, hparams'] using hid
    cases (exec_of_rangeFails hrange).symm.trans hv
    exact read_rangeError ..

/-! ### SET and TS_STEP are not idempotent -/

/-- Event H0 of module 0 at its threshold, and slice 0 with divisor 3; all else is at reset. -/
def armedAndCounting : State :=
  ((State.reset.setEvent 0 .hard 0 { flag := true, counter := 1, debounceCount := 1, resetCount := 2 }).setSlice 0
    { n := 3, counter := 0 })

theorem inv_armedAndCounting : armedAndCounting.Inv := by
  refine State.Inv.setSlice (State.Inv.setEvent (State.inv_resetWith (by decide)) (by decide) ?_ fun h => ?_) 0 ?_
  · decide
  · exact absurd h (by decide)
  · decide

/-- Settles O45, clause by clause: commands that write nothing, module updates that do nothing the second time, a period
that is consumed once, and two commands that count. -/
theorem idempotencyOfCommands : Obligations.IdempotencyOfCommands := by
  refine ⟨fun c s t u hc ht hu => ?_, fun c s t u _ _ hc ht hu r => ?_,
    fun id s t u v cs ht hcs hu hv r => emTick_twice ht hcs hu hv r, fun id k i s t hbit ht => ?_, ?_, ?_⟩
  · refine exec_twice_of_unwritten (fun r => ?_) ht hu
    rcases hc with rfl | ⟨id, k, rfl⟩ | ⟨id, rfl⟩ | ⟨id, k, e, rfl⟩ | ⟨id, k, e, rfl⟩ | ⟨j, rfl⟩ <;> cases r <;> rfl
  · rcases hc with ⟨id, rfl⟩ | ⟨id, rfl⟩ | ⟨id, b, rfl⟩ | ⟨id, v, rfl⟩ | ⟨id, f, nh, ns, rfl⟩ | ⟨id, k, e, d, rc, rfl⟩
    · exact emTick_twice (cs := []) ht nofun rfl hu r
    · exact (updatesModule_emTbSignal s.params id).read_twice (fun _ => rfl) ht hu r
    · exact (updatesModule_itlkReset s.params id b).read_twice (ModuleRegs.unlatched_twice b) ht hu r
    · exact (updatesModule_wrState s.params id v).read_twice (fun _ => rfl) ht hu r
    · exact (updatesModule_emInit s.params id f nh ns).read_twice (fun _ => rfl) ht hu r
    · exact (updatesModule_emCfgEvent s.params id k e d rc).read_twice (fun m => m.setEvent_twice k e _) ht hu r
  · cases (exec_setCommand id k i s).symm.trans ht
    rcases setProcedure_latch_cases s id k i with ⟨t', ht', hemits, hlatch⟩ | ⟨-, -, -, hclear⟩
    · cases ht'
      exact ⟨hlatch id k, by simpa [Emits] using hemits⟩
    · exact absurd (hbit.symm.trans hclear) (by decide)
  · exact ⟨0, .hard, 0, armedAndCounting, _, _, inv_armedAndCounting, rfl, rfl, rfl, rfl, rfl⟩
  · exact ⟨0, armedAndCounting, _, _, inv_armedAndCounting, rfl, rfl, by decide⟩

end Sys2Proof.Machine
end

section
/-! PROOFS. Latches over sequences of commands: INTERLOCK and the latch bits hold until an explicit reset (R99), and
each bit that becomes set causes one `TurnOff` (R87). -/

namespace Sys2Proof.Machine

/-! ### Latch bits under one command -/

theorem latchBit_congr {s t : State} {id : Nat} {k : Kind} (h : t.read (.latch id k) = s.read (.latch id k)) (i : Nat) :
    t.latchBit id k i = s.latchBit id k i := by
  rw [latchBit_eq_testBit, latchBit_eq_testBit, h]

/-- A new latch clears no latch bit. -/
theorem latchBit_takeLatch_of_set {s : State} {id : Nat} {k : Kind} {i : Nat} (h : s.latchBit id k i = true)
    (id' : Nat) (k' : Kind) (i' : Nat) : (s.takeLatch id' k' i').latchBit id k i = true := by
  by_cases hreg : Reg.latch id k = .latch id' k'
  · cases hreg
    by_cases hpresent : id < s.modules.length
    · simp only [State.latchBit, State.latch, mod_takeLatch hpresent, ByKind.get_set_same, BitVec.getLsbD_or]
      exact Bool.or_eq_true_iff.2 (.inl h)
    · exact (latchBit_congr (read_setMod_absent (s.emitTurnOff id) id _ _ hpresent) i).trans h
  · exact (latchBit_congr (read_takeLatch_ne s id' k' i' nofun hreg) i).trans h

/-- ITLK_RESET on another module leaves the latch registers alone. -/
theorem latch_unwritten_of_itlkReset {id id' : Nat} (h : id' ≠ id) (k : Kind) (safe : Bool) :
    (Reg.latch id k).writtenBy (.itlkReset id' safe) = false := by
  simpa [Reg.writtenBy] using Ne.symm h

/-- A latch bit stays set under every command but ITLK_RESET on its module (R99). -/
theorem exec_keeps_latchBit {c : Instr} {id : Nat} {k : Kind} {i : Nat} (hc : ∀ b, c ≠ .itlkReset id b) {s t : State}
    (hs : s.latchBit id k i = true) (h : exec c s = .next t) : t.latchBit id k i = true := by
  rcases exec_latch_cases c s with ⟨t', ht', -, hlatch⟩ | ⟨id', safe, rfl, -⟩ | ⟨id', k', i', rfl, hid, hi, hmet, hbit⟩
  · cases ht'.symm.trans h
    exact (latchBit_congr (hlatch id k) i).trans hs
  · have hne : id' ≠ id := fun he => hc safe (he ▸ rfl)
    exact (latchBit_congr (exec_read_of_unwritten h (latch_unwritten_of_itlkReset hne k safe)) i).trans hs
  · cases (exec_setCommand id' k' i' s).symm.trans h
    rw [setProcedure_of_le_of_clear hid hi (of_decide_eq_true hmet) hbit]
    refine (latchBit_congr ?_ i).trans (latchBit_takeLatch_of_set hs id' k' i')
    rw [read_respond, read_setEvent_latch]

/-- What a SET that latches does to the bits of its latch register (R86). -/
theorem latchBit_setProcedure {s : State} (hs : s.Inv) {id : Nat} {k : Kind} {i : Nat} (hid : id < s.params.M)
    (hi : i < s.num id k) (hmet : (s.event id k i).thresholdMet = true) (hbit : s.latchBit id k i = false) (j : Nat) :
    (s.setProcedure id k i).latchBit id k j = (s.latchBit id k j || decide (j = i)) := by
  rcases setProcedure_effect hs hid hi with ⟨hmet', -⟩ | ⟨-, hbit', -⟩ | ⟨-, -, -, hlatch, -⟩
  · cases hmet.symm.trans hmet'
  · cases hbit.symm.trans hbit'
  · rw [State.latchBit, hlatch, getLsbD_or_one_shl _ _ _ (lt_32_of_configured hs hid hi), State.latchBit]

/-- SET writes no other latch register than its own (R35). -/
theorem latch_unwritten_of_setCommand {id id' : Nat} {k k' : Kind} (h : Reg.latch id k ≠ .latch id' k') (i : Nat) :
    (Reg.latch id k).writtenBy (setCommand id' k' i) = false := by
  cases k' <;> simpa [setCommand, Reg.writtenBy] using h

/-- A latch bit becomes set under no command but SET on its event (R35, R86). -/
theorem latchBit_of_ne_set {c : Instr} {id : Nat} {k : Kind} {i : Nat} (hc : c ≠ setCommand id k i) {s t : State}
    (hs : s.Inv) (h : exec c s = .next t) (ht : t.latchBit id k i = true) : s.latchBit id k i = true := by
  rcases exec_latch_cases c s with
    ⟨t', ht', -, hlatch⟩ | ⟨id', safe, rfl, hid⟩ | ⟨id', k', i', rfl, hid, hi, hmet, hbit⟩
  · cases ht'.symm.trans h
    exact (latchBit_congr (hlatch id k) i).symm.trans ht
  · by_cases he : id' = id
    · subst he
      cases (exec_itlkReset hid safe).symm.trans h
      have hzero := read_leaveLatch_latch (hs.mod_lt hid) safe k
      rw [latchBit_eq_testBit, read_respond, hzero, Nat.zero_testBit] at ht
      cases ht
    · exact (latchBit_congr (exec_read_of_unwritten h (latch_unwritten_of_itlkReset he k safe)) i).symm.trans ht
  · by_cases hreg : Reg.latch id k = .latch id' k'
    · cases hreg
      cases (exec_setCommand id k i' s).symm.trans h
      have hne : i ≠ i' := fun he => hc (he ▸ rfl)
      rw [latchBit_setProcedure hs hid hi hmet hbit] at ht
      simpa [hne] using ht
    · exact (latchBit_congr (exec_read_of_unwritten h (latch_unwritten_of_setCommand hreg i')) i).symm.trans ht

/-! ### The state stays INTERLOCK (R99) -/

/-- SET leaves the state of its module as it is, or forces INTERLOCK (R86, R129). -/
theorem opState_setProcedure_cases {s : State} (hs : s.Inv) (id : Nat) (k : Kind) (i : Nat) :
    (s.setProcedure id k i).read (.opState id) = s.read (.opState id) ∨
      (s.setProcedure id k i).read (.opState id) = 1 := by
  rcases s.setProcedure_cases id k i with ⟨-, he⟩ | ⟨hid, hi, ⟨-, he⟩ | ⟨-, -, he⟩ | ⟨hmet, hbit, -⟩⟩
  · exact .inl (he ▸ read_rangeError ..)
  · exact .inl (by rw [he, read_respond, read_setEvent_opState])
  · exact .inl (by rw [he, read_respond, read_setEvent_opState])
  · obtain ⟨-, -, hstate, -⟩ := setProcedure_latches hs hid hi (of_decide_eq_true hmet) hbit
    exact .inr hstate

/-- The state stays INTERLOCK under every command but ITLK_RESET with `safe = 1` and WR_STATE on the module. -/
theorem exec_keeps_interlock {c : Instr} {id : Nat} (hreset : c ≠ .itlkReset id true) (hwrite : ∀ v, c ≠ .wrState id v)
    {s t : State} (hs : s.Inv) (hstate : s.read (.opState id) = 1) (h : exec c s = .next t) :
    t.read (.opState id) = 1 := by
  cases hw : (Reg.opState id).writtenBy c with
  | false => exact (exec_read_of_unwritten h hw).trans hstate
  | true =>
    cases c <;> simp only [Reg.writtenBy, beq_iff_eq, Bool.false_eq_true] at hw <;> subst hw
    case setHard i =>
      cases h
      exact (opState_setProcedure_cases hs id .hard i).elim (·.trans hstate) fun hone => hone
    case setSoft i =>
      cases h
      exact (opState_setProcedure_cases hs id .soft i).elim (·.trans hstate) fun hone => hone
    case itlkReset safe =>
      cases safe with
      | true => exact absurd rfl hreset
      | false =>
        by_cases hid : id < s.params.M
        · cases (exec_itlkReset hid false).symm.trans h
          rw [read_respond, read_leaveLatch_opState (hs.mod_lt hid), if_neg (by simp), hstate]
        · cases (exec_of_rangeFails (i := .itlkReset id false) (s := s)
            (by simpa [rangeFails, Instr.module, Instr.slice] using hid)).symm.trans h
          exact (read_rangeError ..).trans hstate
    case wrState v => exact absurd rfl (hwrite v)

/-- Settles O47: a new latch forces INTERLOCK, and INTERLOCK and a set bit are kept command by command. -/
theorem latchHoldsUntilReset : Obligations.LatchHoldsUntilReset := by
  refine ⟨fun id k i s t u cs hs hid ht hclear hset hcs hu => ?_, fun c id s t hhard hsoft hreset hwrite h => ?_,
    fun id k i s u cs hs hcs hu => execAll_keeps (fun c hc x y hx hy => exec_keeps_latchBit (hcs c hc) hx hy) hs hu⟩
  · cases (exec_setCommand id k i s).symm.trans ht
    have hstate : (s.setProcedure id k i).read (.opState id) = 1 := by
      rcases setProcedure_latch_cases s id k i with ⟨t', ht', -, hlatch⟩ | ⟨-, hi, hmet, -⟩
      · cases ht'
        cases hset.symm.trans ((latchBit_congr (hlatch id k) i).trans hclear)
      · obtain ⟨-, -, hstate, -⟩ := setProcedure_latches hs hid hi (of_decide_eq_true hmet) hclear
        exact hstate
    obtain ⟨-, hstate'⟩ := execAll_keeps (P := fun x => x.Inv ∧ x.read (.opState id) = 1)
      (fun c hc x y hx hy =>
        ⟨exec_inv hx.1 (hcs c hc).1 hy, exec_keeps_interlock (hcs c hc).2.1 (hcs c hc).2.2 hx.1 hx.2 hy⟩)
      ⟨setProcedure_inv hs id k i, hstate⟩ hu
    exact hstate'
  · refine exec_read_of_unwritten h (Bool.eq_false_iff.2 fun hw => ?_)
    cases c <;> simp only [Reg.writtenBy, beq_iff_eq, Bool.false_eq_true] at hw <;> subst hw
    case setHard i => exact hhard i rfl
    case setSoft i => exact hsoft i rfl
    case itlkReset b => exact hreset b rfl
    case wrState v => exact hwrite v rfl

/-! ### Each latch bit causes one `TurnOff` (R87) -/

/-- How many latch bits of a module are set. -/
def State.latchedCount (s : State) (id : Nat) : Nat :=
  (List.range 32).countP (s.latchBit id .hard) + (List.range 32).countP (s.latchBit id .soft)

theorem latchedCount_congr {s t : State} {id : Nat} (h : ∀ k, t.read (.latch id k) = s.read (.latch id k)) :
    t.latchedCount id = s.latchedCount id := by
  have hbits (k : Kind) : t.latchBit id k = s.latchBit id k := funext (latchBit_congr (h k))
  rw [State.latchedCount, hbits, hbits, State.latchedCount]

/-- One more index below `n` that satisfies the predicate makes the count one more. -/
theorem countP_range_succ_of_new {p q : Nat → Bool} {n i : Nat} (hi : i < n) (hp : p i = false)
    (hq : ∀ j, q j = (p j || decide (j = i))) : (List.range n).countP q = (List.range n).countP p + 1 := by
  induction n with
  | zero => omega
  | succ n ih =>
    rw [List.range_succ, List.countP_append, List.countP_append, List.countP_singleton, List.countP_singleton, hq n]
    by_cases hn : n = i
    · subst hn
      have hbelow : (List.range n).countP q = (List.range n).countP p :=
        List.countP_congr fun j hj => by simp [hq j, (List.mem_range.1 hj).ne]
      simp [hbelow, hp]
    · rw [ih (by omega)]
      simp only [hn, decide_false, Bool.or_false]
      omega

/-- A SET that latches makes one more latch bit of its module set. -/
theorem latchedCount_setProcedure {s : State} (hs : s.Inv) {id : Nat} {k : Kind} {i : Nat} (hid : id < s.params.M)
    (hi : i < s.num id k) (hmet : (s.event id k i).thresholdMet = true) (hbit : s.latchBit id k i = false) :
    (s.setProcedure id k i).latchedCount id = s.latchedCount id + 1 := by
  have hown := countP_range_succ_of_new (lt_32_of_configured hs hid hi) hbit (latchBit_setProcedure hs hid hi hmet hbit)
  have hother {k' : Kind} (hk : k' ≠ k) : (s.setProcedure id k i).latchBit id k' = s.latchBit id k' := by
    refine funext (latchBit_congr (exec_read_of_unwritten (exec_setCommand id k i s) ?_))
    exact latch_unwritten_of_setCommand (by simpa using hk) i
  cases k with
  | hard =>
    simp only [State.latchedCount, hown, hother (k' := .soft) nofun]
    omega
  | soft =>
    simp only [State.latchedCount, hown, hother (k' := .hard) nofun]
    omega

/-- Under every command but ITLK_RESET on the module, its `TurnOff` events and its set latch bits grow by as much. -/
theorem exec_turnOff_count {c : Instr} {id : Nat} (hc : ∀ b, c ≠ .itlkReset id b) {s t : State} (hs : s.Inv)
    (h : exec c s = .next t) :
    t.out.turnOff.count id + s.latchedCount id = s.out.turnOff.count id + t.latchedCount id := by
  rcases exec_latch_cases c s with
    ⟨t', ht', hemits, hlatch⟩ | ⟨id', safe, rfl, hid'⟩ | ⟨id', k, i, rfl, hid', hi, hmet, hbit⟩
  · cases ht'.symm.trans h
    rw [latchedCount_congr (hlatch id), hemits, List.append_nil]
  · have hne : id' ≠ id := fun he => hc safe (he ▸ rfl)
    rw [latchedCount_congr fun k => exec_read_of_unwritten h (latch_unwritten_of_itlkReset hne k safe)]
    cases (exec_itlkReset hid' safe).symm.trans h
    rfl
  · obtain ⟨-, -, -, -, -, hemits, -⟩ := setProcedure_latches hs hid' hi (of_decide_eq_true hmet) hbit
    cases (exec_setCommand id' k i s).symm.trans h
    rw [hemits, List.count_append, List.count_singleton]
    by_cases he : id' = id
    · subst he
      rw [latchedCount_setProcedure hs hid' hi hmet hbit, if_pos (beq_self_eq_true _)]
      omega
    · rw [latchedCount_congr fun k' => exec_read_of_unwritten h
        (latch_unwritten_of_setCommand (by simp [Ne.symm he]) i), if_neg (by simpa using he)]
      rfl

/-- Settles O48: the difference of the two counts is the same after each command. -/
theorem eachLatchBitTurnsOffOnce : Obligations.EachLatchBitTurnsOffOnce := by
  intro id s u cs hs _ hcs hu
  obtain ⟨-, hcount⟩ := execAll_keeps
    (P := fun x => x.Inv ∧ x.out.turnOff.count id + s.latchedCount id = s.out.turnOff.count id + x.latchedCount id)
    (fun c hc x y hx hy => by
      have hstep := exec_turnOff_count (hcs c hc).2 hx.1 hy
      exact ⟨exec_inv hx.1 (hcs c hc).1 hy, by omega⟩) ⟨hs, rfl⟩ hu
  exact hcount

end Sys2Proof.Machine
end

section
/-! PROOFS. Episodes of one event over sequences of commands: its counter (R91), its self-healing (R93) and its latching
(R92). -/

namespace Sys2Proof.Machine

/-! ### An episode counts the ticks consumed (R91) -/

/-- The ticks that one command consumes on module `id`. -/
def tickOf (id : Nat) (c : Instr) (s : State) : Nat := if c = .emTick id ∧ s.read (.tbFlag id) = 1 then 1 else 0

theorem ticksConsumed_cons {id : Nat} {c : Instr} {cs : List Instr} {s t : State} (h : exec c s = .next t) :
    ticksConsumed id (c :: cs) s = tickOf id c s + ticksConsumed id cs t := by
  rw [ticksConsumed.eq_def]
  simp only [h, tickOf]

theorem tickOf_of_ne {id : Nat} {c : Instr} (h : c ≠ .emTick id) (s : State) : tickOf id c s = 0 :=
  if_neg fun hc => h hc.1

/-- From `s` to `t` the event is configured as before, and the invariant holds. -/
structure SameConfiguration (id : Nat) (k : Kind) (i : Nat) (s t : State) : Prop where
  inv : t.Inv
  params : t.params = s.params
  num : t.read (.num id k) = s.read (.num id k)
  debounceCount : t.read (.debounceCount id k i) = s.read (.debounceCount id k i)
  resetCount : t.read (.resetCount id k i) = s.read (.resetCount id k i)

theorem SameConfiguration.trans {id : Nat} {k : Kind} {i : Nat} {s t u : State} (h : SameConfiguration id k i s t)
    (h' : SameConfiguration id k i t u) : SameConfiguration id k i s u :=
  ⟨h'.inv, h'.params.trans h.params, h'.num.trans h.num, h'.debounceCount.trans h.debounceCount,
    h'.resetCount.trans h.resetCount⟩

/-- The commands that write the number of events of a kind or the configured counts of an event (R35). -/
theorem cases_of_writtenBy_configuration {r : Reg} {c : Instr} {id : Nat} {k : Kind} {i : Nat}
    (hr : r = .num id k ∨ r = .debounceCount id k i ∨ r = .resetCount id k i) (h : r.writtenBy c = true) :
    (∃ f nh ns, c = .emInit id f nh ns) ∨ ∃ d rc, c = .emCfgEvent id k i d rc := by
  rcases hr with rfl | rfl | rfl <;> cases c <;> simp_all [Reg.writtenBy]

/-- The other commands leave the configuration of the event as it is. -/
theorem exec_sameConfiguration {c : Instr} {id : Nat} {k : Kind} {i : Nat} (hinit : ∀ f nh ns, c ≠ .emInit id f nh ns)
    (hcfg : ∀ d rc, c ≠ .emCfgEvent id k i d rc) {s t : State} (ht : t.Inv) (h : exec c s = .next t) :
    SameConfiguration id k i s t := by
  have hread {r : Reg} (hr : r = .num id k ∨ r = .debounceCount id k i ∨ r = .resetCount id k i) :
      t.read r = s.read r := by
    refine exec_read_of_unwritten h (Bool.eq_false_iff.2 fun hw => ?_)
    rcases cases_of_writtenBy_configuration hr hw with ⟨f, nh, ns, hc⟩ | ⟨d, rc, hc⟩
    · exact hinit f nh ns hc
    · exact hcfg d rc hc
  exact ⟨ht, exec_params h, hread (.inl rfl), hread (.inr (.inl rfl)), hread (.inr (.inr rfl))⟩

/-- Below the reset count EM_TICK keeps a flagged event flagged and counts the tick that it consumes (R82). -/
theorem emTick_counts {id : Nat} {k : Kind} {i : Nat} {s t : State} (hs : s.Inv) (hid : id < s.params.M)
    (hi : i < s.read (.num id k)) (hflag : s.read (.flag id k i) = 1)
    (hreset : s.read (.counter id k i) + tickOf id (.emTick id) s < s.read (.resetCount id k i))
    (h : exec (.emTick id) s = .next t) :
    t.read (.flag id k i) = 1 ∧ t.read (.counter id k i) = s.read (.counter id k i) + tickOf id (.emTick id) s := by
  cases htb : (s.mod id).tbFlag with
  | false =>
    have hclear : s.read (.tbFlag id) = 0 := bitOf_eq_zero.2 htb
    have hzero : tickOf id (.emTick id) s = 0 := if_neg (by simp [hclear])
    cases (exec_emTick_of_clear hid hclear).symm.trans h
    rw [hzero, read_respond, read_respond]
    exact ⟨hflag, rfl⟩
  | true =>
    have hone : tickOf id (.emTick id) s = 1 := if_pos ⟨rfl, bitOf_eq_one.2 htb⟩
    rw [hone] at hreset ⊢
    have hev : t.event id k i = (s.event id k i).tick := (emTick_event hs k i hid h).trans (if_pos ⟨htb, hi⟩)
    obtain ⟨hstays, hcounts⟩ := Event.tick_of_lt (bitOf_eq_one.1 hflag) hreset
    obtain ⟨hf, hcounter, -⟩ := reads_of_event hev
    exact ⟨hf.trans (bitOf_eq_one.2 hstays), hcounter.trans hcounts⟩

/-- One command of an episode, on the event itself: below the reset count it counts the tick consumed, if there is one,
and below the debounce count SET leaves it pending. -/
theorem exec_keeps_flagged {c : Instr} {id : Nat} {k : Kind} {i : Nat} {s t : State} (hs : s.Inv)
    (hid : id < s.params.M) (hi : i < s.read (.num id k)) (hflag : s.read (.flag id k i) = 1)
    (hinit : ∀ f nh ns, c ≠ .emInit id f nh ns) (hcfg : ∀ d r, c ≠ .emCfgEvent id k i d r)
    (hreset : s.read (.counter id k i) + tickOf id c s < s.read (.resetCount id k i))
    (hset : c = setCommand id k i → s.read (.counter id k i) < s.read (.debounceCount id k i))
    (h : exec c s = .next t) :
    t.read (.flag id k i) = 1 ∧ t.read (.counter id k i) = s.read (.counter id k i) + tickOf id c s ∧
      (t.latchBit id k i = true → s.latchBit id k i = true) := by
  by_cases hc : c = setCommand id k i
  · subst hc
    cases (exec_setCommand id k i s).symm.trans h
    obtain ⟨hev, hlatch⟩ := setProcedure_below hs hid hi (hset rfl)
    obtain ⟨hf, hcounter, -⟩ := reads_of_event hev
    rw [tickOf_of_ne (by cases k <;> nofun)]
    exact ⟨hf, hcounter, (latchBit_congr hlatch i).symm.trans⟩
  have hlatch := latchBit_of_ne_set hc hs h
  by_cases htick : c = .emTick id
  · subst htick
    obtain ⟨hf, hcounter⟩ := emTick_counts hs hid hi hflag hreset h
    exact ⟨hf, hcounter, hlatch⟩
  · obtain ⟨hf, hcounter, -⟩ := reads_of_event (event_of_unwritten h hc htick hinit hcfg)
    rw [tickOf_of_ne htick]
    exact ⟨hf.trans hflag, hcounter, hlatch⟩

/-- From `s` to `t` a configured event stays flagged, its counter grows by `n`, its configuration stays, and its latch bit
is not newly set. -/
structure StaysFlagged (id : Nat) (k : Kind) (i n : Nat) (s t : State) : Prop extends SameConfiguration id k i s t where
  flag : t.read (.flag id k i) = 1
  counter : t.read (.counter id k i) = s.read (.counter id k i) + n
  latchBit : t.latchBit id k i = true → s.latchBit id k i = true

theorem StaysFlagged.trans {id : Nat} {k : Kind} {i n m : Nat} {s t u : State} (h : StaysFlagged id k i n s t)
    (h' : StaysFlagged id k i m t u) : StaysFlagged id k i (n + m) s u where
  toSameConfiguration := h.toSameConfiguration.trans h'.toSameConfiguration
  flag := h'.flag
  counter := by rw [h'.counter, h.counter, Nat.add_assoc]
  latchBit hu := h.latchBit (h'.latchBit hu)

/-- One command of an episode. -/
theorem exec_staysFlagged {c : Instr} {id : Nat} {k : Kind} {i : Nat} {s t : State} (hs : s.Inv) (hid : id < s.params.M)
    (hi : i < s.read (.num id k)) (hflag : s.read (.flag id k i) = 1) (hwf : c.wf = true)
    (hinit : ∀ f nh ns, c ≠ .emInit id f nh ns) (hcfg : ∀ d r, c ≠ .emCfgEvent id k i d r)
    (hreset : s.read (.counter id k i) + tickOf id c s < s.read (.resetCount id k i))
    (hset : c = setCommand id k i → s.read (.counter id k i) < s.read (.debounceCount id k i))
    (h : exec c s = .next t) : StaysFlagged id k i (tickOf id c s) s t := by
  obtain ⟨hf, hcounter, hlatch⟩ := exec_keeps_flagged hs hid hi hflag hinit hcfg hreset hset h
  exact ⟨exec_sameConfiguration hinit hcfg (exec_inv hs hwf h) h, hf, hcounter, hlatch⟩

/-- A sequence of commands that leaves an episode going. -/
theorem execAll_staysFlagged {id : Nat} {k : Kind} {i : Nat} {s u : State} {cs : List Instr} (hs : s.Inv)
    (hid : id < s.params.M) (hi : i < s.read (.num id k)) (hflag : s.read (.flag id k i) = 1)
    (hcs : ∀ c ∈ cs, c.wf = true ∧ (∀ f nh ns, c ≠ .emInit id f nh ns) ∧ ∀ d r, c ≠ .emCfgEvent id k i d r)
    (hreset : s.read (.counter id k i) + ticksConsumed id cs s < s.read (.resetCount id k i))
    (hset : setCommand id k i ∈ cs →
      s.read (.counter id k i) + ticksConsumed id cs s < s.read (.debounceCount id k i))
    (h : execAll cs s = some u) : StaysFlagged id k i (ticksConsumed id cs s) s u := by
  induction cs generalizing s with
  | nil =>
    cases h
    exact ⟨⟨hs, rfl, rfl, rfl, rfl⟩, hflag, rfl, fun hl => hl⟩
  | cons c cs ih =>
    obtain ⟨t, ht, hrest⟩ := execAll_cons h
    obtain ⟨hwf, hinit, hcfg⟩ := hcs c List.mem_cons_self
    rw [ticksConsumed_cons ht] at hreset hset ⊢
    have hfirst := exec_staysFlagged hs hid hi hflag hwf hinit hcfg (by omega)
      (fun hc => by have := hset (hc ▸ List.mem_cons_self); omega) ht
    refine hfirst.trans (ih hfirst.inv (by rw [hfirst.params]; exact hid) (by rw [hfirst.num]; exact hi) hfirst.flag
      (fun c' hc' => hcs c' (List.mem_cons_of_mem c hc')) ?_ (fun hmem => ?_) hrest)
    · rw [hfirst.counter, hfirst.resetCount]
      omega
    · have := hset (List.mem_cons_of_mem c hmem)
      rw [hfirst.counter, hfirst.debounceCount]
      omega

/-- Settles O50: what `StaysFlagged` says of the whole sequence. -/
theorem episodeCounterCountsConsumedTicks : Obligations.EpisodeCounterCountsConsumedTicks := by
  intro id k i s u cs hs hid hi hflag hcs hreset hset hu
  have h := execAll_staysFlagged hs hid hi hflag hcs hreset hset hu
  exact ⟨h.flag, h.counter, h.latchBit⟩

/-- Settles O51: the episode goes on up to the last tick, which clears the event. -/
theorem unrepeatedEventSelfHeals : Obligations.UnrepeatedEventSelfHeals := by
  intro id k i s u v cs hs hid hi hflag hcs hreset hu htb hv
  have h := execAll_staysFlagged hs hid hi hflag (fun c hc => ⟨(hcs c hc).1, (hcs c hc).2.1, (hcs c hc).2.2.1⟩)
    (by omega) (fun hmem => absurd rfl (hcs _ hmem).2.2.2) hu
  have hid' : id < u.params.M := by rw [h.params]; exact hid
  have hev : v.event id k i = (u.event id k i).tick :=
    (emTick_event h.inv k i hid' hv).trans (if_pos ⟨bitOf_eq_one.1 htb, hi.trans_eq h.num.symm⟩)
  have hle : u.read (.resetCount id k i) ≤ u.read (.counter id k i) + 1 := by
    rw [h.resetCount, h.counter]
    omega
  have hclear := hev.trans (Event.tick_of_le (bitOf_eq_one.1 h.flag) hle)
  obtain ⟨hf, hcounter, -⟩ := reads_of_event hclear
  refine ⟨hf, hcounter, fun hbit => h.latchBit (latchBit_of_ne_set ?_ h.inv hv hbit)⟩
  cases k <;> nofun

/-! ### A condition that persists latches (R92) -/

/-- What a condition reported over `n` counted ticks since the state `s` leaves in `u`: pending below the debounce
count, and latched at it. -/
def PersistedFor (id : Nat) (k : Kind) (i n : Nat) (s u : State) : Prop :=
  (n < s.read (.debounceCount id k i) → Responds .ok 0 n u ∧ u.read (.counter id k i) = n ∧
    u.read (.flag id k i) = 1 ∧ u.latchBit id k i = s.latchBit id k i ∧ u.out.turnOff = s.out.turnOff) ∧
  (n = s.read (.debounceCount id k i) →
    Responds .ok (if s.latchBit id k i then 2 else 1) n u ∧ u.latchBit id k i = true ∧
    u.read (.flag id k i) = 0 ∧ u.read (.counter id k i) = 0 ∧
    u.out.turnOff = s.out.turnOff ++ (if s.latchBit id k i then [] else [id]))

/-- From `s` to `t` nothing has changed that decides when and how the event latches, its counter apart. -/
structure SameSetup (id : Nat) (k : Kind) (i : Nat) (s t : State) : Prop extends SameConfiguration id k i s t where
  latchBit : t.latchBit id k i = s.latchBit id k i
  turnOff : t.out.turnOff = s.out.turnOff

theorem SameSetup.trans {id : Nat} {k : Kind} {i : Nat} {s t u : State} (h : SameSetup id k i s t)
    (h' : SameSetup id k i t u) : SameSetup id k i s u :=
  ⟨h.toSameConfiguration.trans h'.toSameConfiguration, h'.latchBit.trans h.latchBit, h'.turnOff.trans h.turnOff⟩

/-- What has persisted since `t` has persisted since `s`. -/
theorem PersistedFor.of_sameSetup {id : Nat} {k : Kind} {i n : Nat} {s t u : State} (h : SameSetup id k i s t)
    (hu : PersistedFor id k i n t u) : PersistedFor id k i n s u := by
  rwa [PersistedFor, h.debounceCount, h.latchBit, h.turnOff] at hu

/-- The two commands of a period keep what decides when and how an event latches. -/
theorem exec_sameSetup {c : Instr} {id : Nat} {k : Kind} {i : Nat} (hc : c = .emTbSignal id ∨ c = .emTick id)
    {s t : State} (hs : s.Inv) (h : exec c s = .next t) : SameSetup id k i s t := by
  have hinv : t.Inv := exec_inv_of_freq hs (by rcases hc with rfl | rfl <;> nofun) h
  have hconfiguration : SameConfiguration id k i s t :=
    exec_sameConfiguration (by rcases hc with rfl | rfl <;> nofun) (by rcases hc with rfl | rfl <;> nofun) hinv h
  rcases exec_latch_cases c s with ⟨t', ht', hemits, hlatch⟩ | ⟨id', safe, he, -⟩ | ⟨id', k', i', he, -⟩
  · cases ht'.symm.trans h
    exact ⟨hconfiguration, latchBit_congr (hlatch id k) i, by simpa [Emits] using hemits⟩
  · rcases hc with rfl | rfl <;> cases he
  · rcases hc with rfl | rfl <;> cases k' <;> cases he

section
variable {s : State} {id : Nat} {k : Kind} {i : Nat} (hs : s.Inv) (hid : id < s.params.M) (hi : i < s.read (.num id k))
include hs hid hi

/-- The last SET: it finds the counter below the debounce count, or at it (R86). -/
theorem setProcedure_persistedFor :
    PersistedFor id k i (s.read (.counter id k i)) s (s.setProcedure id k i) := by
  refine ⟨fun hlt => ?_, fun heq => ?_⟩
  · obtain ⟨hflag, hresponds, hemits, -⟩ := setProcedure_pends hs hid hi hlt
    obtain ⟨hev, hlatch⟩ := setProcedure_below hs hid hi hlt
    exact ⟨hresponds, (reads_of_event hev).2.1, hflag, latchBit_congr hlatch i, by simpa [Emits] using hemits⟩
  · obtain ⟨-, hbit⟩ := setProcedure_reached hs hid hi heq.ge
    cases hl : s.latchBit id k i with
    | false =>
      obtain ⟨hflag, hcounter, -, -, hresponds, hemits, -⟩ := setProcedure_latches hs hid hi heq.ge hl
      exact ⟨hresponds, hbit, hflag, hcounter, hemits⟩
    | true =>
      obtain ⟨hflag, hcounter, hresponds, hemits, -⟩ := setProcedure_clears hs hid hi heq.ge hl
      exact ⟨hresponds, hbit, hflag, hcounter, hemits⟩

/-- A SET below the debounce count flags the event, and does nothing else to what its latching depends on (R86). -/
theorem setProcedure_sameSetup (hlt : s.read (.counter id k i) < s.read (.debounceCount id k i)) :
    SameSetup id k i s (s.setProcedure id k i) ∧ (s.setProcedure id k i).read (.flag id k i) = 1 ∧
      (s.setProcedure id k i).read (.counter id k i) = s.read (.counter id k i) := by
  obtain ⟨hflag, -, hemits, hparams, -, -, -, -, -, hframe⟩ := setProcedure_pends hs hid hi hlt
  have hread {r : Reg} (hr : r ≠ .flag id k i) : (s.setProcedure id k i).read r = s.read r := hframe r hr
  exact ⟨⟨⟨setProcedure_inv hs id k i, hparams, hread nofun, hread nofun, hread nofun⟩,
    latchBit_congr (hread nofun) i, by simpa [Emits] using hemits⟩, hflag, hread nofun⟩

/-- A period signalled and consumed counts one in a flagged event below its reset count (R80, R82). -/
theorem counter_of_period (hflag : s.read (.flag id k i) = 1)
    (hlt : s.read (.counter id k i) + 1 < s.read (.resetCount id k i)) {t u : State}
    (ht : exec (.emTbSignal id) s = .next t) (hu : exec (.emTick id) t = .next u) :
    u.read (.counter id k i) = s.read (.counter id k i) + 1 := by
  obtain ⟨t', ht', htb, -⟩ := emTbSignalSetsTheFlag.2.1 s id hs hid
  cases ht'.symm.trans ht
  have hsetup := exec_sameSetup (k := k) (i := i) (.inl rfl) hs ht
  have hsame : t.event id k i = s.event id k i := event_of_unwritten ht (by cases k <;> nofun) nofun nofun nofun
  obtain ⟨hf, hcounter, -⟩ := reads_of_event hsame
  have hone : tickOf id (.emTick id) t = 1 := if_pos ⟨rfl, htb⟩
  obtain ⟨-, hcounts⟩ := emTick_counts hsetup.inv (by rw [hsetup.params]; exact hid) (hi.trans_eq hsetup.num.symm)
    (hf.trans hflag) (by rw [hone, hsetup.resetCount, hcounter]; exact hlt) hu
  rw [hcounts, hone, hcounter]
  rfl

end

/-- A condition reported at the start of each of `n` periods and after the last. -/
theorem persistedFor_of_periods {id : Nat} {k : Kind} {i n : Nat} {s u : State} (hs : s.Inv) (hid : id < s.params.M)
    (hi : i < s.read (.num id k))
    (h : execAll (setCommand id k i ::
      (List.replicate n [Instr.emTbSignal id, .emTick id, setCommand id k i]).flatten) s = some u) :
    PersistedFor id k i (s.read (.counter id k i) + n) s u := by
  induction n generalizing s with
  | zero =>
    obtain ⟨t, ht, hrest⟩ := execAll_cons h
    cases hrest
    cases (exec_setCommand id k i s).symm.trans ht
    exact setProcedure_persistedFor hs hid hi
  | succ n ih =>
    obtain ⟨t, ht, hperiods⟩ := execAll_cons h
    rw [List.replicate_succ, List.flatten_cons] at hperiods
    obtain ⟨u', hu', htick⟩ := execAll_cons hperiods
    obtain ⟨v, hv, hlater⟩ := execAll_cons htick
    by_cases hlt : s.read (.counter id k i) < s.read (.debounceCount id k i)
    · cases (exec_setCommand id k i s).symm.trans ht
      obtain ⟨hset, hflag, hcounter⟩ := setProcedure_sameSetup hs hid hi hlt
      obtain ⟨-, hdc⟩ := hs.counts_lt hid k i
      have hone := counter_of_period hset.inv (by rw [hset.params]; exact hid) (by rw [hset.num]; exact hi) hflag
        (by rw [hcounter, hset.resetCount]; omega) hu' hv
      have hsignal := exec_sameSetup (k := k) (i := i) (.inl rfl) hset.inv hu'
      have hperiod := hset.trans (hsignal.trans (exec_sameSetup (.inr rfl) hsignal.inv hv))
      have hrest := ih hperiod.inv (by rw [hperiod.params]; exact hid) (by rw [hperiod.num]; exact hi) hlater
      rw [hone, hcounter, Nat.add_assoc, Nat.add_comm 1 n] at hrest
      exact hrest.of_sameSetup hperiod
    · exact ⟨fun _ => by omega, fun _ => by omega⟩

/-- Settles O52: the event is idle at the start, so its counter is 0. -/
theorem persistentConditionLatchesAtTheDebounceCount : Obligations.PersistentConditionLatchesAtTheDebounceCount := by
  intro id k i n s u hs hid hi hflag h
  have hpersisted := persistedFor_of_periods hs hid hi h
  rwa [hs.counter_of_idle hid (bitOf_eq_zero.1 hflag), Nat.zero_add] at hpersisted

end Sys2Proof.Machine
end

section
/-! PROOFS. A configured slice over sequences of commands: it fires at every `N`-th TS_STEP (R103). -/

namespace Sys2Proof.Machine

/-- Below the divisor the next remainder is one more, and at it 0. -/
theorem succ_mod_of_lt {x n : Nat} (h : x < n) : (x + 1) % n = if n ≤ x + 1 then 0 else x + 1 := by
  split
  case isTrue hle =>
    obtain rfl : n = x + 1 := by omega
    exact Nat.mod_self _
  case isFalse hlt => exact Nat.mod_eq_of_lt (by omega)

/-- What a TS_STEP does to its slice and answers, with the counter as a remainder (R102). -/
theorem exec_tsStep_mod {s t : State} (hs : s.Inv) {j : Nat} (hj : j < s.params.S) (h : exec (.tsStep j) s = .next t) :
    t.read (.tsN j) = s.read (.tsN j) ∧ t.read (.tsCounter j) = (s.read (.tsCounter j) + 1) % s.read (.tsN j) ∧
      Responds .ok (if (s.read (.tsCounter j) + 1) % s.read (.tsN j) = 0 then 1 else 0)
        ((s.read (.tsCounter j) + 1) % s.read (.tsN j)) t := by
  obtain ⟨t', ht', hcounter, hresponds, -, -, -, -, -, -, -, hframe⟩ := tsStepCountsAndFires.2.1 s j hs hj
  cases ht'.symm.trans h
  obtain ⟨hlt, -⟩ := hs.slice_ok hj
  have hmod := succ_mod_of_lt (x := s.read (.tsCounter j)) (n := s.read (.tsN j)) hlt
  have hfires : (s.read (.tsCounter j) + 1) % s.read (.tsN j) = 0 ↔ s.read (.tsN j) ≤ s.read (.tsCounter j) + 1 := by
    rw [hmod]
    split <;> omega
  rw [← hmod] at hcounter
  simp only [hfires]
  exact ⟨hframe _ nofun, hcounter, hcounter ▸ hresponds⟩

/-- A command other than TS_CONFIG on a slice keeps its divisor, and other than TS_STEP its counter (R35). -/
theorem slice_unwritten {c : Instr} {j : Nat} (hconfig : ∀ tg m, c ≠ .tsConfig j tg m) :
    (Reg.tsN j).writtenBy c = false ∧ (c ≠ .tsStep j → (Reg.tsCounter j).writtenBy c = false) := by
  refine ⟨Bool.eq_false_iff.2 fun hw => ?_, fun hstep => Bool.eq_false_iff.2 fun hw => ?_⟩ <;>
    cases c <;> simp only [Reg.writtenBy, beq_iff_eq, Bool.false_eq_true] at hw <;> subst hw
  case refine_1.tsConfig tg m => exact hconfig tg m rfl
  case refine_2.tsConfig tg m => exact hconfig tg m rfl
  case refine_2.tsStep => exact hstep rfl

/-- Over commands other than TS_CONFIG on the slice, its counter counts their TS_STEPs on it modulo the divisor. -/
theorem execAll_counts_mod {j : Nat} {s u : State} {cs : List Instr} (hs : s.Inv) (hj : j < s.params.S)
    (hcs : ∀ c ∈ cs, c.wf = true ∧ ∀ tg m, c ≠ .tsConfig j tg m) (h : execAll cs s = some u) :
    u.Inv ∧ u.params = s.params ∧ u.read (.tsN j) = s.read (.tsN j) ∧
      u.read (.tsCounter j) = (s.read (.tsCounter j) + cs.count (.tsStep j)) % s.read (.tsN j) := by
  induction cs generalizing s with
  | nil =>
    cases h
    exact ⟨hs, rfl, rfl, (Nat.mod_eq_of_lt (hs.slice_ok hj).1).symm⟩
  | cons c cs ih =>
    obtain ⟨t, ht, hrest⟩ := execAll_cons h
    obtain ⟨hwf, hconfig⟩ := hcs c List.mem_cons_self
    have hparams := exec_params ht
    obtain ⟨hinv, hp, hn, hcounter⟩ := ih (exec_inv hs hwf ht) (by rw [hparams]; exact hj)
      (fun c' hc' => hcs c' (List.mem_cons_of_mem c hc')) hrest
    obtain ⟨hkeepsN, hkeepsCounter⟩ := slice_unwritten hconfig
    have hnt := exec_read_of_unwritten ht hkeepsN
    refine ⟨hinv, hp.trans hparams, hn.trans hnt, ?_⟩
    rw [hcounter, hnt]
    by_cases hc : c = .tsStep j
    · subst hc
      obtain ⟨-, hstep, -⟩ := exec_tsStep_mod hs hj ht
      rw [hstep, Nat.mod_add_mod, List.count_cons_self, Nat.add_assoc, Nat.add_comm 1]
    · rw [exec_read_of_unwritten ht (hkeepsCounter hc), List.count_cons_of_ne hc]

/-- Settles O53: TS_CONFIG starts the count at 0, and the last TS_STEP counts one more. -/
theorem sliceFiresEveryNthStep : Obligations.SliceFiresEveryNthStep := by
  intro j target master s t u v cs hs hj ht hcs hu hv
  obtain ⟨t', ht', -, hzero, -⟩ := tsConfigSetsTheDivisor.2.1 s j target master hs hj
  cases ht'.symm.trans ht
  have hparams := exec_params ht
  have hjt : j < t.params.S := by rw [hparams]; exact hj
  have hinvt : t.Inv := exec_inv_of_freq hs (fun _ _ _ _ hc => by cases hc) ht
  obtain ⟨hinv, hp, hn, hcounter⟩ := execAll_counts_mod hinvt hjt hcs hu
  obtain ⟨-, -, hresponds⟩ := exec_tsStep_mod hinv (by rw [hp]; exact hjt) hv
  rwa [hcounter, hn, hzero, Nat.zero_add, Nat.mod_add_mod] at hresponds

end Sys2Proof.Machine
end
